-- ==== Sys2Proof/Word.lean ====
section
/-! DEFINITION. Word.lean: the widths of the block (00_scope.md R3, R4). Bit 0 is the least significant bit of every
word (R8), which is also how Lean's BitVec numbers bits. -/

namespace Sys2Proof

/-- A command word, `cmd[7:0]` (R4, R47). -/
abbrev CommandWord := BitVec 8

/-- A frame, an accumulator value or a response word: 32 bits (R3, R4, R17). -/
abbrev Word := BitVec 32

/-- A channel index, 0 to 7 (R3, R49); also the width of T_REG. -/
abbrev Channel := BitVec 3

/-- A bit position of the frame, the width of BIT (R17). -/
abbrev BitIndex := BitVec 5

end Sys2Proof
end

