-- ==== Sys2Proof/Syntax.lean ====
section
/-! DEFINITION. Syntax.lean: the commands of the block, one constructor per row of spec/opcode_table.json
(30_encoding.md R46, R51), the kinds of reserved words (R52), and the rows of the opcode map as data. -/

namespace Sys2Proof

/-- The five commands (R46). Only READ has an operand, the 3-bit channel index (R49). -/
inductive Instr where
  /-- READ c: select channel c and capture one frame (R62). -/
  | read (c : Channel)
  /-- HOT: the hot-junction temperature of the latest frame (R86). -/
  | hot
  /-- COLD: the reference-junction temperature of the latest frame (R87). -/
  | cold
  /-- FAULTS: the fault classification of the latest frame (R88). -/
  | faults
  /-- RAW: the latest frame (R89). -/
  | raw
deriving DecidableEq, Repr

/-- Why a command word is reserved: the three kinds of R52. -/
inductive ReservedWord where
  /-- op is 000, 110 or 111. -/
  | unassignedOp
  /-- op is assigned and rsv is not 00. -/
  | reservedBitsSet
  /-- op is an accessor's, rsv is 00 and arg is not 000. -/
  | argumentSet
deriving DecidableEq, Repr

/-- One row of the opcode map: a word selects it exactly when `(word & mask) = value` (R51). -/
structure OpcodeRow where
  value : CommandWord
  mask : CommandWord
deriving DecidableEq, Repr

end Sys2Proof
end

