-- ==== Sys2Proof/WellFormed.lean ====
section
/-! DEFINITION. WellFormed.lean: the checks on a command. A channel field is 3 bits wide, so every term of Instr fits
its encoding (30_encoding.md R50); what can be ill-formed is a command WORD (R47, R52), and the integer a host writes
for a channel (R57). -/

namespace Sys2Proof

/-- The channel of a READ is 0 to 7 (R49); the other commands have no operand. -/
def Instr.wellFormed : Instr → Bool
  | .read c => decide (c.toNat < 8)
  | .hot => true
  | .cold => true
  | .faults => true
  | .raw => true

/-- The op field, bits [7:5], is 001 to 101 (R51). -/
def opAssigned (w : CommandWord) : Bool :=
  decide (0x20 ≤ w.toNat) && decide (w.toNat < 0xC0)

/-- The rsv field, bits [4:3], is 00 (R47). -/
def rsvClear (w : CommandWord) : Bool := (w &&& 0x18) == 0

/-- The arg field, bits [2:0], is 000, or the word is a READ's (R47). -/
def argAllowed (w : CommandWord) : Bool := (w &&& 0x07) == 0 || (w &&& 0xE0) == 0x20

/-- The word is a command: none of R52's three kinds of reserved word. -/
def wordWellFormed (w : CommandWord) : Bool := opAssigned w && rsvClear w && argAllowed w

/-- An integer an assembler takes as a channel: 0 to 7 (R57, U1). -/
def channelInRange (n : Int) : Bool := decide (0 ≤ n) && decide (n ≤ 7)

end Sys2Proof
end

