-- ==== Sys2Proof/Decode.lean ====
section
/-! DEFINITION. Decode.lean: the decoder and the encoder of command words (30_encoding.md R47, R51, R52). -/

namespace Sys2Proof

/-- op, bits [7:5] (R47). -/
def opField (w : CommandWord) : BitVec 3 := w.extractLsb' 5 3

/-- rsv, bits [4:3] (R47). -/
def rsvField (w : CommandWord) : BitVec 2 := w.extractLsb' 3 2

/-- arg, bits [2:0] (R47). -/
def argField (w : CommandWord) : BitVec 3 := w.extractLsb' 0 3

/-- An accessor's word, once its op is known: rsv and arg must be zero (R47). -/
def decodeAccessor (i : Instr) (w : CommandWord) : Except ReservedWord Instr :=
  if rsvField w = 0b00#2 then
    if argField w = 0b000#3 then .ok i else .error .argumentSet
  else .error .reservedBitsSet

/-- A READ's word, once its op is known: rsv must be zero, arg is the channel (R47, R49). -/
def decodeRead (w : CommandWord) : Except ReservedWord Instr :=
  if rsvField w = 0b00#2 then .ok (.read (argField w)) else .error .reservedBitsSet

/-- The command a word is, or the kind of reserved word it is (R51, R52). -/
def decode (w : CommandWord) : Except ReservedWord Instr :=
  if opField w = 0b001#3 then decodeRead w
  else if opField w = 0b010#3 then decodeAccessor .hot w
  else if opField w = 0b011#3 then decodeAccessor .cold w
  else if opField w = 0b100#3 then decodeAccessor .faults w
  else if opField w = 0b101#3 then decodeAccessor .raw w
  else .error .unassignedOp

/-- op, rsv and arg put together, op in the most significant bits (R47). -/
def commandWord (op : BitVec 3) (arg : BitVec 3) : CommandWord := op ++ (0b00#2 ++ arg)

/-- The word of a command (R51). -/
def encode : Instr → CommandWord
  | .read c => commandWord 0b001#3 c
  | .hot => commandWord 0b010#3 0b000#3
  | .cold => commandWord 0b011#3 0b000#3
  | .faults => commandWord 0b100#3 0b000#3
  | .raw => commandWord 0b101#3 0b000#3

/-- The row of R51's opcode map for a command. -/
def opcodeRow : Instr → OpcodeRow
  | .read _ => { value := 0x20, mask := 0xF8 }
  | .hot => { value := 0x40, mask := 0xFF }
  | .cold => { value := 0x60, mask := 0xFF }
  | .faults => { value := 0x80, mask := 0xFF }
  | .raw => { value := 0xA0, mask := 0xFF }

/-- The word selects the row (R51). -/
def selectsRow (w : CommandWord) (r : OpcodeRow) : Bool := (w &&& r.mask) == r.value

/-- The instruction the decoder reads from `nbits` bits of value `w`: a command is one 8-bit word (R48), so bits above
`nbits` are zero and more than 8 bits are no command. -/
def decodeTableWord (nbits w : Nat) : Option Instr :=
  if nbits ≤ 8 then
    match decode (BitVec.ofNat 8 (w % 2 ^ nbits)) with
    | .ok i => some i
    | .error _ => none
  else none

end Sys2Proof
end

