-- ==== Sys2Proof/Config.lean ====
section
/-! DEFINITION. Config.lean: what the build fixes (00_scope.md R5, R6, R7) and the one free value, the draw of SO
(60_exceptions.md R102). The five parameters are OPEN: a model takes them as arguments, and refuses a configuration
that breaks R5 or R6. -/

namespace Sys2Proof

/-- The five timing parameters as written down, legal or not (R5). -/
structure Params where
  /-- `P_F_CLK_HZ`: frequency of `clk` in hertz. -/
  fClkHz : Nat
  /-- `P_SETTLE_CYCLES`: periods from driving T2..T0 to driving CS low. -/
  settleCycles : Nat
  /-- `P_CSS_CYCLES`: periods from CS low to the first rising edge of SCK. -/
  cssCycles : Nat
  /-- `P_HIGH_CYCLES`: periods SCK stays high in each bit. -/
  highCycles : Nat
  /-- `P_LOW_CYCLES`: periods SCK stays low after each bit. -/
  lowCycles : Nat
deriving DecidableEq, Repr, Inhabited

/-- Why parameters are no configuration of this block: the constraint of R5 or R6 they break. -/
inductive ConfigError where
  /-- `P_F_CLK_HZ` is 0 (R5). -/
  | clockZero
  /-- `P_SETTLE_CYCLES` is 0 (R5). -/
  | settleZero
  /-- `8 * P_SETTLE_CYCLES < P_F_CLK_HZ`: the settle interval is under 125 ms (R6, R114). -/
  | settleTooShort
  /-- `P_CSS_CYCLES` is 0 (R5). -/
  | cssZero
  /-- `P_HIGH_CYCLES` is 0 (R5). -/
  | highZero
  /-- `P_LOW_CYCLES` is 0 (R5). -/
  | lowZero
deriving DecidableEq, Repr

/-- The first constraint of R5 and R6 that the parameters break, or none. -/
def Params.problem (p : Params) : Option ConfigError :=
  if p.fClkHz = 0 then some .clockZero
  else if p.settleCycles = 0 then some .settleZero
  else if 8 * p.settleCycles < p.fClkHz then some .settleTooShort
  else if p.cssCycles = 0 then some .cssZero
  else if p.highCycles = 0 then some .highZero
  else if p.lowCycles = 0 then some .lowZero
  else none

/-- CFG-A of 95_test_vectors.md. -/
def Params.cfgA : Params :=
  { fClkHz := 16, settleCycles := 2, cssCycles := 1, highCycles := 1, lowCycles := 1 }

/-- A configuration of this block: parameters that meet every constraint of R5 and R6. An illegal one cannot be
built. The defaults let a literal leave its proof out; they are no choice of a build. -/
structure Config where
  params : Params := Params.cfgA
  legal : params.problem = none := by decide
deriving DecidableEq, Repr, Inhabited

/-- Builds a configuration, or refuses the parameters by the name of what they break (R6, R114). -/
def Config.make (p : Params) : Except ConfigError Config :=
  match h : p.problem with
  | none => .ok ⟨p, h⟩
  | some e => .error e

/-- CFG-A as a configuration, for tests. -/
def Config.cfgA : Config := { params := Params.cfgA, legal := by decide }

/-- `P_F_CLK_HZ`. -/
def Config.fClkHz (c : Config) : Nat := c.params.fClkHz

/-- S, `P_SETTLE_CYCLES`. -/
def Config.settleCycles (c : Config) : Nat := c.params.settleCycles

/-- C, `P_CSS_CYCLES`. -/
def Config.cssCycles (c : Config) : Nat := c.params.cssCycles

/-- H, `P_HIGH_CYCLES`. -/
def Config.highCycles (c : Config) : Nat := c.params.highCycles

/-- L, `P_LOW_CYCLES`. -/
def Config.lowCycles (c : Config) : Nat := c.params.lowCycles

/-- `L_READ`, the periods from the edge that accepts a READ to the edge that completes it (R68). -/
def Config.lRead (c : Config) : Nat :=
  c.settleCycles + c.cssCycles + 32 * (c.highCycles + c.lowCycles)

/-- The configuration of the block at hand: any legal one (R5, D11: OPEN). It has no body, so nothing can be proved
of its values (log 3). -/
opaque Config.build : Config

/-- The draw of SO at the edge with this number, where the input port does not say a stable level: any bit, under
no law (R102, R116). No body: a free value (log 2). -/
opaque Config.soDraw : Nat → Bool

end Sys2Proof
end

