-- ==== Sys2Proof/Machine/State.lean ====
section
/-! DEFINITION. Machine/State.lean: the state of the block (10_state.md R17, R30), its input ports (R16), its event
trace (00_scope.md R12), and the state right after reset. -/

namespace Sys2Proof.Machine

/-- The phases of FSM (R17): an enumeration, since no port shows its encoding. -/
inductive Phase where
  /-- IDLE: between reads. -/
  | idle
  /-- SETTLE: mux settling. -/
  | settle
  /-- CSS: CS asserted, before the first rising edge of SCK. -/
  | css
  /-- HIGH: SCK high for bit BIT. -/
  | high
  /-- LOW: SCK low after bit BIT. -/
  | low
deriving DecidableEq, Repr

/-- The values of the input ports just before one edge (R16). -/
structure Ports where
  /-- `rst`, synchronous reset, active high. -/
  rst : Bool
  /-- `cmd_valid`: a command is offered on `cmd`. -/
  cmdValid : Bool
  /-- `cmd`, the command word. -/
  cmd : CommandWord
  /-- `so`: `some b` is a level stable around the edge, `none` one that is not, whose sample is a draw (R116). -/
  so : Option Bool
deriving DecidableEq, Repr

/-- A host that asserts nothing, and an SO of which nothing is known (log 1). -/
def Ports.quiet : Ports := { rst := false, cmdValid := false, cmd := 0x00#8, so := none }

/-- `Drive(pin, v)`: which board-side output is driven, and to what (R12, R16). `true` is HIGH. -/
inductive PinDrive where
  /-- The three mux address lines together (R19). -/
  | t (v : Channel)
  /-- Chip-select, active low. -/
  | csN (v : Bool)
  /-- Serial clock. -/
  | sck (v : Bool)
deriving DecidableEq, Repr

/-- One pin event of the trace, with the number of the edge it happened at (R12, R67). -/
structure Event where
  edgeNo : Nat
  pin : PinDrive
deriving DecidableEq, Repr

/-- The block: the registers of R17, the build it is (R5), the event trace of R12, and the model's own `inputs` and
`edgeNo` (log 1, log 5). -/
structure State where
  /-- The timing parameters of the build (R5): an argument of the model, which no step writes (log 3). -/
  cfg : Config
  /-- The input ports just before each coming edge, the next edge first (log 1). -/
  inputs : List Ports
  /-- The number of the next edge (log 5). -/
  edgeNo : Nat
  /-- The event trace (R12), the latest event first (log 4). -/
  trace : List Event
  /-- T_REG: the channel of the most recent READ accepted (R19). -/
  tReg : Channel
  /-- CS_N_REG: `true` is HIGH, de-asserted. -/
  csN : Bool
  /-- SCK_REG: `true` is HIGH. -/
  sck : Bool
  /-- FRAME: the latest frame (R20). -/
  frame : Word
  /-- ACC: where a frame is built bit by bit (R26). -/
  acc : Word
  /-- FSM. -/
  fsm : Phase
  /-- CNT: periods spent in the current phase. -/
  cnt : Nat
  /-- BIT: the frame bit being read. -/
  bit : BitIndex
  /-- RSP_VALID: a response is present this period. -/
  rspValid : Bool
  /-- RSP_ERR: the response reports a rejected command. -/
  rspErr : Bool
  /-- RSP_DATA: the response value. -/
  rspData : Word
deriving DecidableEq, Repr

/-- The machine raises no exception and has no trap, so no step can end in a fault, and the type of faults is empty
(R90, R96). -/
inductive Fault where
deriving DecidableEq, Repr

/-- Why a step has no meaning. -/
inductive Refusal where
  /-- An instruction with no meaning yet: raised only by an arm of exec. No arm raises it: every command of the opcode
  table has its meaning. Safe. -/
  | notModelled (mnemonic : String)
deriving DecidableEq, Repr

/-- The state right after a reset edge of a block built with `cfg`: R30's table, with the drives of Construction in the
trace (R108) as events of edge 0 (log 4, log 5), and no input yet (log 1). -/
def State.resetWith (cfg : Config) : State where
  cfg := cfg
  inputs := []
  edgeNo := 1
  trace := [⟨0, .csN true⟩, ⟨0, .t 0b000#3⟩, ⟨0, .sck false⟩]
  tReg := 0b000#3
  csN := true
  sck := false
  frame := 0x00000000#32
  acc := 0x00000000#32
  fsm := .idle
  cnt := 0
  bit := 0#5
  rspValid := false
  rspErr := false
  rspData := 0x00000000#32

/-- The state right after reset (R30) of the build at hand, whose parameters are open (R5). -/
def State.reset : State := State.resetWith Config.build

end Sys2Proof.Machine
end

