-- ==== Sys2Proof/Machine/Operands.lean ====
section
/-! DEFINITION. Machine/Operands.lean: the fields of a frame (10_state.md R21), their signed values and temperatures
(00_scope.md R10, R13, 41_frame_decode.md R77 to R79), the mux lines of a channel (40_select_and_read.md R59), and
writing one bit of a word (R72). -/

namespace Sys2Proof.Machine

/-- HOT, bits [31:18] of a frame (R21). -/
def hotField (f : Word) : BitVec 14 := f.extractLsb' 18 14

/-- COLD, bits [15:4] of a frame (R21). -/
def coldField (f : Word) : BitVec 12 := f.extractLsb' 4 12

/-- The signed value of an n-bit field: its most significant bit weighs `-2^(n-1)` (R10). -/
def signedValue (n : Nat) (v : BitVec n) : Int :=
  if v.getLsbD (n - 1) then (v.toNat : Int) - (2 : Int) ^ n else (v.toNat : Int)

/-- `sext_32` of an n-bit field: bits [n-1:0] are the field's and the others copy its top bit (R10). -/
def sext32 (n : Nat) (v : BitVec n) : Word := v.signExtend 32

/-- `zext_32` of an n-bit field (R10). -/
def zext32 (n : Nat) (v : BitVec n) : Word := v.setWidth 32

/-- `hot_code(f)`: the hot field as a signed count of 0.25 degrees C (R77). -/
def hotCode (f : Word) : Int := signedValue 14 (hotField f)

/-- `cold_code(f)`: the reference field as a signed count of 0.0625 degrees C (R79). -/
def coldCode (f : Word) : Int := signedValue 12 (coldField f)

/-- `hot_celsius(f)`, an exact rational (R13, R77). -/
def hotCelsius (f : Word) : Rat := (hotCode f : Rat) / 4

/-- `cold_celsius(f)`, an exact rational (R13, R79). -/
def coldCelsius (f : Word) : Rat := (coldCode f : Rat) / 16

/-- The source's own conversion of an n-bit field: invert, add one, negate (R78, `alg_n`). -/
def invertAndNegate (n v : Nat) : Int :=
  if 2 ^ (n - 1) ≤ v then -(((2 ^ n - 1 - v : Nat) : Int) + 1) else (v : Int)

/-- The level of mux line T0, T1 or T2 (k = 0, 1, 2) for a value of T_REG: `true` is HIGH (R19, R59). -/
def muxLine (t : Channel) (k : Nat) : Bool := t.getLsbD k

/-- `w` with bit `i` replaced by `b` and every other bit as it was: `ACC[BIT] <- so` (R72). -/
def writeBit (w : Word) (i : BitIndex) (b : Bool) : Word :=
  (w &&& ~~~(1#32 <<< i.toNat)) ||| (if b then 1#32 <<< i.toNat else 0#32)

end Sys2Proof.Machine
end

