-- ==== Sys2Proof/Machine/Flags.lean ====
section
/-! DEFINITION. Machine/Flags.lean: the fault bits of a frame and their classification (41_frame_decode.md R82, R83).
The block has no status flags of its own (10_state.md R25): FAULT, SCV, SCG and OC are data in FRAME (R21). -/

namespace Sys2Proof.Machine

/-- The fault classification of a frame (R82). -/
inductive FaultCode where
  /-- No fault reported. -/
  | noFault
  /-- Short to supply. -/
  | scvFault
  /-- Short to ground. -/
  | scgFault
  /-- Open circuit or thermocouple absent. -/
  | ocFault
deriving DecidableEq, Repr

/-- FAULT, bit 16: the fault summary (R21). -/
def faultSummary (f : Word) : Bool := f.getLsbD 16

/-- SCV, bit 2 (R21). -/
def scvBit (f : Word) : Bool := f.getLsbD 2

/-- SCG, bit 1 (R21). -/
def scgBit (f : Word) : Bool := f.getLsbD 1

/-- OC, bit 0 (R21). -/
def ocBit (f : Word) : Bool := f.getLsbD 0

/-- `fault_code(f)`: nothing unless the summary is set, then SCV over SCG over OC (R82). -/
def faultCode (f : Word) : FaultCode :=
  if faultSummary f = false then .noFault
  else if scvBit f then .scvFault
  else if scgBit f then .scgFault
  else if ocBit f then .ocFault
  else .noFault

/-- The 2-bit value of a fault code (R83). -/
def faultNumber : FaultCode → BitVec 2
  | .noFault => 0
  | .scvFault => 1
  | .scgFault => 2
  | .ocFault => 3

end Sys2Proof.Machine
end

