-- ==== Sys2Proof/Machine/Ops.lean ====
section
/-! DEFINITION. Machine/Ops.lean: the named operations over the registers and the ports: reading the input ports,
`Drive`, `SampleSO` and `Respond` (00_scope.md R12), `cmd_ready` (10_state.md R18), reset (70_reset_and_hazards.md
R107), and the end of an edge. The block takes no exception and returns from none (60_exceptions.md R90, R96, R97), so
no operation for either stands here. -/

namespace Sys2Proof.Machine

/-- The input ports just before the edge `k` edges from the next one. Past the end of the list the host asserts nothing
and SO is unknown (log 1). -/
def portAt (s : State) (k : Nat) : Ports := s.inputs.getD k Ports.quiet

/-- The input ports just before the next edge (R53). -/
def portNow (s : State) : Ports := portAt s 0

/-- The bit on SO at the edge `k` edges from the next one: the port's level where it is stable, else a draw (R102,
R116). -/
def soAt (s : State) (k : Nat) : Bool :=
  match (portAt s k).so with
  | some b => b
  | none => Config.soDraw (s.edgeNo + k)

/-- `SampleSO()`: the bit on SO just before the next edge (R12, R64). -/
def sampleSo (s : State) : Bool := soAt s 0

/-- `cmd_ready`: no READ is in progress (R18). -/
def cmdReady (s : State) : Bool := s.fsm == .idle

/-- The next edge accepts the command on `cmd` (R53). -/
def accepts (s : State) : Bool :=
  !(portNow s).rst && (portNow s).cmdValid && cmdReady s

/-- `Drive(pin, v)`: set the pin's register and record the event (R12). -/
def drive (d : PinDrive) (s : State) : State :=
  match d with
  | .t v => { s with tReg := v, trace := ⟨s.edgeNo, .t v⟩ :: s.trace }
  | .csN v => { s with csN := v, trace := ⟨s.edgeNo, .csN v⟩ :: s.trace }
  | .sck v => { s with sck := v, trace := ⟨s.edgeNo, .sck v⟩ :: s.trace }

/-- `Respond(data, err)`: RSP_VALID <- 1, RSP_DATA <- data, RSP_ERR <- err (R55). -/
def respond (data : Word) (err : Bool) (s : State) : State :=
  { s with rspValid := true, rspData := data, rspErr := err }

/-- An edge that makes no response: RSP_VALID <- 0, RSP_DATA and RSP_ERR keep their values (R55). -/
def noResponse (s : State) : State := { s with rspValid := false }

/-- The end of an edge: its input is used up and the next edge's number is one higher. No register changes. -/
def tick (s : State) : State :=
  { s with inputs := s.inputs.tail, edgeNo := s.edgeNo + 1 }

/-- Every register takes its reset value, the pins by the drives of Construction (R107, R108). -/
def resetRegisters (s : State) : State :=
  { drive (.csN true) (drive (.t 0b000#3) (drive (.sck false) s)) with
    frame := 0x00000000#32
    acc := 0x00000000#32
    fsm := .idle
    cnt := 0
    bit := 0#5
    rspValid := false
    rspErr := false
    rspData := 0x00000000#32 }

/-- The next edge's input replaced by the offer of `w`, SO as it was, and no READ in progress: what it takes for the
next edge to accept `w` (R53, log 7). -/
def offerWord (w : CommandWord) (s : State) : State :=
  { s with
    inputs := { rst := false, cmdValid := true, cmd := w, so := (portNow s).so } :: s.inputs.tail
    fsm := .idle }

end Sys2Proof.Machine
end

