-- ==== Sys2Proof/Machine/SerialReader.lean ====
section
/-! DEFINITION. Machine/SerialReader.lean: the serial reader at the cycle level, one definition per FSM phase
(40_select_and_read.md R69 to R73). Each gives the registers after an edge with `rst = 0` that accepts nothing. -/

namespace Sys2Proof.Machine

/-- One more period in the current phase. -/
def countOn (s : State) : State := { s with cnt := s.cnt + 1 }

/-- FSM = SETTLE (R70). -/
def settleEdge (s : State) : State :=
  if s.cnt = s.cfg.settleCycles - 1 then
    { drive (.csN false) s with cnt := 0, fsm := .css }
  else countOn s

/-- FSM = CSS (R71). -/
def cssEdge (s : State) : State :=
  if s.cnt = s.cfg.cssCycles - 1 then
    { drive (.sck true) s with bit := 31#5, cnt := 0, fsm := .high }
  else countOn s

/-- FSM = HIGH (R72): at its last period bit BIT of ACC takes the sample and SCK falls. -/
def highEdge (s : State) : State :=
  if s.cnt = s.cfg.highCycles - 1 then
    { drive (.sck false) s with acc := writeBit s.acc s.bit (sampleSo s), cnt := 0, fsm := .low }
  else countOn s

/-- The edge that completes a READ: CS rises, FRAME takes all of ACC, and the READ responds (R73, R65, R55). -/
def completeRead (s : State) : State :=
  respond 0x00000000#32 false { drive (.csN true) s with frame := s.acc, cnt := 0, fsm := .idle }

/-- FSM = LOW (R73). -/
def lowEdge (s : State) : State :=
  if s.cnt = s.cfg.lowCycles - 1 then
    if s.bit = 0#5 then completeRead s
    else { drive (.sck true) s with bit := s.bit - 1#5, cnt := 0, fsm := .high }
  else countOn s

/-- The registers after an edge with `rst = 0` that accepts nothing: the one rule FSM chooses, and RSP_VALID falls
unless the edge completes a READ (R69 to R73, R55). -/
def advance (s : State) : State :=
  match s.fsm with
  | .idle => noResponse s
  | .settle => settleEdge (noResponse s)
  | .css => cssEdge (noResponse s)
  | .high => highEdge (noResponse s)
  | .low => lowEdge (noResponse s)

end Sys2Proof.Machine
end

