-- ==== Sys2Proof/Machine/Handshake.lean ====
section
/-! DEFINITION. Machine/Handshake.lean: accepting a command or turning it away (30_encoding.md R53), and the response
to a reserved word (R52, R55). -/

namespace Sys2Proof.Machine

/-- The edge at which a command with this effect is offered with `rst = 0`: accepted when `cmd_ready = 1`, and
otherwise turned away, no register changing on its account while the READ in progress goes on (R53, log 6). -/
def onAccept (effect : State → State) (s : State) : Host.Outcome State Fault Refusal :=
  if cmdReady s then .next (tick (effect s)) else .next (tick (advance s))

/-- The edge that accepts a reserved word: an error response and no other effect (R52, R92). -/
def rejectReserved (s : State) : Host.Outcome State Fault Refusal :=
  onAccept (respond 0x00000000#32 true) s

/-- The edge at which `rst = 1`: every register takes its reset value, whatever else the ports hold (R107). -/
def resetEdge (s : State) : Host.Outcome State Fault Refusal := .next (tick (resetRegisters s))

/-- The edge at which `rst = 0` and nothing is accepted (R69 to R73). -/
def quietEdge (s : State) : Host.Outcome State Fault Refusal := .next (tick (advance s))

end Sys2Proof.Machine
end

