-- ==== Sys2Proof/Machine/ChannelSelector.lean ====
section
/-! DEFINITION. Machine/ChannelSelector.lean: READ at the edge that accepts it (40_select_and_read.md R60, R69). The
rest of the READ is the serial reader's, one edge at a time (Machine/SerialReader.lean). -/

namespace Sys2Proof.Machine

/-- The registers after the edge that accepts READ c: T_REG <- c, ACC <- 0, CNT <- 0, FSM <- SETTLE, and no response
yet (R69, R55). -/
def startRead (c : Channel) (s : State) : State :=
  noResponse { drive (.t c) s with acc := 0x00000000#32, cnt := 0, fsm := .settle }

/-- READ c (R62, R69). -/
def execRead (c : Channel) (s : State) : Host.Outcome State Fault Refusal := onAccept (startRead c) s

end Sys2Proof.Machine
end

