-- ==== Sys2Proof/Machine/FrameDecoder.lean ====
section
/-! DEFINITION. Machine/FrameDecoder.lean: the four accessors (41_frame_decode.md R76, R86 to R89). Each responds at the
edge that accepts it, from FRAME just before that edge, and writes nothing but the response registers. -/

namespace Sys2Proof.Machine

/-- HOT's response word (R86). -/
def hotWord (f : Word) : Word := sext32 14 (hotField f)

/-- COLD's response word (R87). -/
def coldWord (f : Word) : Word := sext32 12 (coldField f)

/-- FAULTS' response word (R88). -/
def faultsWord (f : Word) : Word := zext32 2 (faultNumber (faultCode f))

/-- HOT (R86). -/
def execHot (s : State) : Host.Outcome State Fault Refusal :=
  onAccept (respond (hotWord s.frame) false) s

/-- COLD (R87). -/
def execCold (s : State) : Host.Outcome State Fault Refusal :=
  onAccept (respond (coldWord s.frame) false) s

/-- FAULTS (R88). -/
def execFaults (s : State) : Host.Outcome State Fault Refusal :=
  onAccept (respond (faultsWord s.frame) false) s

/-- RAW (R89). -/
def execRaw (s : State) : Host.Outcome State Fault Refusal :=
  onAccept (respond s.frame false) s

end Sys2Proof.Machine
end

