-- ==== Sys2Proof/Machine/Dispatch.lean ====
section
/-! DEFINITION. Machine/Dispatch.lean: the meaning of each command, one arm per row of spec/opcode_table.json. -/

namespace Sys2Proof.Machine

def exec (i : Instr) (s : State) : Host.Outcome State Fault Refusal :=
  match i with
  | .read c => Sys2Proof.Machine.execRead c s
  | .hot => Sys2Proof.Machine.execHot s
  | .cold => Sys2Proof.Machine.execCold s
  | .faults => Sys2Proof.Machine.execFaults s
  | .raw => Sys2Proof.Machine.execRaw s

end Sys2Proof.Machine
end

