-- ==== Sys2Proof/Machine/Step.lean ====
section
/-! DEFINITION. Machine/Step.lean: one rising edge of `clk` (60_exceptions.md R95): reset outranks everything; then a
command accepted, or the FSM's own rule. -/

namespace Sys2Proof.Machine

/-- One rising edge of `clk`, on the input ports just before it (R95). DESIGN CHOICE, unsafe (log 11): R100 leaves the
block's behaviour unspecified where the host offers a command before the first reset, and this edge runs by the same
rules there, from any registers. -/
def step (s : State) : Host.Outcome State Fault Refusal :=
  if (portNow s).rst then resetEdge s
  else if accepts s then
    match decode (portNow s).cmd with
    | .ok i => exec i s
    | .error _ => rejectReserved s
  else quietEdge s

/-- `s` with the command word of value `w` offered at its next edge, so that the next step accepts exactly it (log 7).
A command is one 8-bit word (R48), so bits above `nbits` are zero. -/
def State.withFetchWord (s : State) (nbits w : Nat) : State :=
  offerWord (BitVec.ofNat 8 (w % 2 ^ nbits)) s

end Sys2Proof.Machine
end

