-- ==== Sys2Proof/Machine/Transaction.lean ====
section
/-! DEFINITION. Machine/Transaction.lean: READ at the transaction level (40_select_and_read.md R62): the pseudocode as a
list of actions, each completing before the next (00_scope.md R11), and its pin-event table (R67). It shares `drive`,
`respond` and the sample with the cycle level and none of its control: no FSM, no CNT, no BIT. -/

namespace Sys2Proof.Machine

/-- A line of R62's pseudocode. -/
inductive Action where
  /-- `Drive(pin, v)`. -/
  | drive (d : PinDrive)
  /-- `ACC <- 0x00000000`. -/
  | clearAcc
  /-- `Wait(n)`: exactly n clock periods (R74). -/
  | wait (n : Nat)
  /-- `ACC[i] <- SampleSO()`. -/
  | sample (i : BitIndex)
  /-- `FRAME <- ACC`. -/
  | publish
  /-- `Respond(data, err)`. -/
  | respond (data : Word) (err : Bool)
deriving DecidableEq, Repr

/-- `n` clock periods go by and no register changes. -/
def pass (n : Nat) (s : State) : State :=
  { s with inputs := s.inputs.drop n, edgeNo := s.edgeNo + n }

/-- What a line of the pseudocode does, at the edge the state stands before. -/
def perform (s : State) : Action → State
  | .drive d => drive d s
  | .clearAcc => { s with acc := 0x00000000#32 }
  | .wait n => pass n s
  | .sample i => { s with acc := writeBit s.acc i (sampleSo s) }
  | .publish => { s with frame := s.acc }
  | .respond data err => respond data err s

/-- Step 4 for one bit of the frame (R62). -/
def bitActions (cfg : Config) (i : BitIndex) : List Action :=
  [.drive (.sck true), .wait cfg.highCycles, .sample i, .drive (.sck false), .wait cfg.lowCycles]

/-- The frame bits in the order they are clocked out: 31, 30, ..., 0 (R33, R62). -/
def msbFirst : List BitIndex := (List.range 32).map (fun k => BitVec.ofNat 5 (31 - k))

/-- READ c, the pseudocode of R62. -/
def readActions (cfg : Config) (c : Channel) : List Action :=
  [.drive (.t c), .clearAcc, .wait cfg.settleCycles, .drive (.csN false), .wait cfg.cssCycles]
    ++ msbFirst.flatMap (bitActions cfg)
    ++ [.drive (.csN true), .publish, .respond 0x00000000#32 false]

/-- The state just after the edge that completes READ c, by the transaction level; the cycle level's own CNT and BIT
end at 0 (R73). -/
def transactRead (c : Channel) (s : State) : State :=
  tick { (readActions s.cfg c).foldl perform s with cnt := 0, bit := 0#5 }

/-- Offset from e0 of the k-th rising edge of SCK (R67). -/
def riseOffset (cfg : Config) (k : Nat) : Nat :=
  cfg.settleCycles + cfg.cssCycles + k * (cfg.highCycles + cfg.lowCycles)

/-- Offset from e0 of the k-th sample, which is the k-th falling edge of SCK (R67). -/
def sampleOffset (cfg : Config) (k : Nat) : Nat := riseOffset cfg k + cfg.highCycles

/-- The two events of bit k of a READ accepted at edge e0 (R67). -/
def bitEvents (cfg : Config) (e0 k : Nat) : List Event :=
  [⟨e0 + riseOffset cfg k, .sck true⟩, ⟨e0 + sampleOffset cfg k, .sck false⟩]

/-- The pin events of READ c accepted at edge e0, the earliest first: the table of R67. -/
def readEvents (cfg : Config) (c : Channel) (e0 : Nat) : List Event :=
  [⟨e0, .t c⟩, ⟨e0 + cfg.settleCycles, .csN false⟩]
    ++ (List.range 32).flatMap (bitEvents cfg e0)
    ++ [⟨e0 + cfg.lRead, .csN true⟩]

end Sys2Proof.Machine
end

