-- ==== Sys2Proof/Safety.lean ====
section
/-! DEFINITION. Safety.lean: what claims about the block are stated in: the invariant of the registers (10_state.md R17,
R27, R28), what a host and an environment do over a READ (R53, R102), and runs of edges. -/

namespace Sys2Proof.Machine

/-- `n` edges of the machine behind `core`. -/
def runEdges (n : Nat) (s : State) : Host.Outcome State Fault Refusal := Host.Core.run Sys2Proof.core n s

/-- The level of CS in each phase (R28): `true` is HIGH. -/
def phaseCs : Phase → Bool
  | .idle => true
  | .settle => true
  | .css => false
  | .high => false
  | .low => false

/-- The level of SCK in each phase (R28). -/
def phaseSck : Phase → Bool
  | .idle => false
  | .settle => false
  | .css => false
  | .high => true
  | .low => false

/-- The length of each phase in edges; IDLE has none, and CNT stays 0 there (R17, R24). -/
def phaseLength (cfg : Config) : Phase → Nat
  | .idle => 1
  | .settle => cfg.settleCycles
  | .css => cfg.cssCycles
  | .high => cfg.highCycles
  | .low => cfg.lowCycles

/-- The frame bits still to be sampled: in HIGH, BIT and those below it; in LOW, those below BIT; before the first
clock pulse, all; in IDLE, none (R62, R63). -/
def unsampledBits (s : State) : Nat :=
  match s.fsm with
  | .idle => 0
  | .settle => 32
  | .css => 32
  | .high => s.bit.toNat + 1
  | .low => s.bit.toNat

/-- The level T was last driven to, by the trace. -/
def lastT : List Event → Option Channel
  | [] => none
  | ⟨_, .t v⟩ :: _ => some v
  | _ :: rest => lastT rest

/-- The level CS was last driven to, by the trace. -/
def lastCs : List Event → Option Bool
  | [] => none
  | ⟨_, .csN v⟩ :: _ => some v
  | _ :: rest => lastCs rest

/-- The level SCK was last driven to, by the trace. -/
def lastSck : List Event → Option Bool
  | [] => none
  | ⟨_, .sck v⟩ :: _ => some v
  | _ :: rest => lastSck rest

/-- The pin registers hold what the event trace says was last driven (R12), and no event is later than now. -/
structure TraceAgrees (s : State) : Prop where
  t : lastT s.trace = some s.tReg
  csN : lastCs s.trace = some s.csN
  sck : lastSck s.trace = some s.sck
  past : ∀ e ∈ s.trace, e.edgeNo < s.edgeNo

/-- The legal states of the block: R17's legal values and R27, R28; ACC zero in every bit not yet sampled and equal to
FRAME between reads; BIT and CNT at rest between reads; no response while a READ is in progress; an error response
carries no data (R52); the trace tells the pins. -/
structure Inv (s : State) : Prop where
  cs : s.csN = phaseCs s.fsm
  sck : s.sck = phaseSck s.fsm
  cnt : s.cnt < phaseLength s.cfg s.fsm
  bit : s.fsm ≠ .high → s.fsm ≠ .low → s.bit = 0#5
  unsampled : ∀ i, i < unsampledBits s → s.acc.getLsbD i = false
  published : s.fsm = .idle → s.acc = s.frame
  silent : s.fsm ≠ .idle → s.rspValid = false
  error : s.rspErr = true → s.rspData = 0x00000000#32
  trace : TraceAgrees s

/-- The host asserts no reset at the `n` edges after the next one. -/
def NoResetFor (n : Nat) (s : State) : Prop := ∀ k, 1 ≤ k → k ≤ n → (portAt s k).rst = false

/-- The next edge accepts READ c (R53, R69). -/
def AcceptsRead (c : Channel) (s : State) : Prop := accepts s = true ∧ (portNow s).cmd = encode (.read c)

/-- The next edge accepts READ c and no reset comes before the edge that completes it (R66). -/
def RunsRead (c : Channel) (s : State) : Prop := AcceptsRead c s ∧ NoResetFor s.cfg.lRead s

/-- None of the next `n` edges resets or accepts a READ. Other words may be accepted, or nothing. -/
def NoReadFor (n : Nat) (s : State) : Prop :=
  ∀ k t, k < n → runEdges k s = .next t → (portNow t).rst = false ∧ ∀ c, ¬ AcceptsRead c t

/-- The bit a converter holding frame `f` presents on SO after `k` falling edges of SCK since CS went low: bit 31
first, and one bit down at each falling edge (ENV items 2 and 3, R102). -/
def presentedBit (f : Word) (k : Nat) : Bool := f.getLsbD (31 - k)

/-- ENV for a READ accepted at the next edge, of a converter that holds frame `f` (R102): at the sample instant after
`k` falling edges, SO is stable at the bit the converter presents. It is a premise about the environment. -/
def EnvPresents (f : Word) (s : State) : Prop :=
  ∀ k, k < 32 → (portAt s (sampleOffset s.cfg k)).so = some (presentedBit f k)

/-- `s` with other values on the command port just before its next edge, `rst` and `so` as they were. -/
def withOffer (valid : Bool) (w : CommandWord) (s : State) : State :=
  { s with inputs := { portNow s with cmdValid := valid, cmd := w } :: s.inputs.tail }

/-- An edge with `rst = 0` at this state completes a READ (R73). -/
def completesRead (s : State) : Bool :=
  s.fsm == .low && s.cnt == s.cfg.lowCycles - 1 && s.bit == 0#5

/-- The response a command gives at its accepting edge, from the frame before it: none for READ, whose response comes
when it completes (R56). The values are integers put into 32 bits. -/
def acceptedResponse (d : Except ReservedWord Instr) (f : Word) : Option (Word × Bool) :=
  match d with
  | .ok (.read _) => none
  | .ok .hot => some (BitVec.ofInt 32 (hotCode f), false)
  | .ok .cold => some (BitVec.ofInt 32 (coldCode f), false)
  | .ok .faults => some (BitVec.ofNat 32 (faultNumber (faultCode f)).toNat, false)
  | .ok .raw => some (f, false)
  | .error _ => some (0x00000000#32, true)

/-- The response registers of an outcome's next state: RSP_VALID, RSP_DATA, RSP_ERR. -/
def responseOf : Host.Outcome State Fault Refusal → Option (Bool × Word × Bool)
  | .next t => some (t.rspValid, t.rspData, t.rspErr)
  | .fault _ => none
  | .refused _ => none

/-- The command is an accessor: HOT, COLD, FAULTS or RAW (R76). -/
def isAccessor : Instr → Bool
  | .read _ => false
  | .hot => true
  | .cold => true
  | .faults => true
  | .raw => true

/-- The sum of `b_i * 2^i` over the 32 bit positions (R33, R63). -/
def sampledSum (b : Nat → Bool) : Nat :=
  ((List.range 32).map (fun i => if b i then 2 ^ i else 0)).sum

/-- Two states agree on every register but RSP_VALID, RSP_DATA and RSP_ERR, on the build and on the event trace: what
an accessor leaves alone (R76). -/
structure SameButResponse (s t : State) : Prop where
  cfg : t.cfg = s.cfg
  trace : t.trace = s.trace
  tReg : t.tReg = s.tReg
  csN : t.csN = s.csN
  sck : t.sck = s.sck
  frame : t.frame = s.frame
  acc : t.acc = s.acc
  fsm : t.fsm = s.fsm
  cnt : t.cnt = s.cnt
  bit : t.bit = s.bit

end Sys2Proof.Machine
end

