-- ==== Sys2Proof/Certificates/Slice0/Obligations.lean ====
section
/-! DEFINITION. Certificates/Slice0/Obligations.lean: the statements for the provers. `tick` is the end of an edge: it uses
up one input and changes no register. Every statement is about all states; runs are of edges, and never of a program. Of
the hardware the statements hold with R100's duty as a premise: before the first reset the spec gives a command no
behaviour, and that the model runs it by the same rules is its own choice (log 11). -/

open Sys2Proof Sys2Proof.Machine

/-! ## Configuration, encoding and reset -/

/-- R5, R6: parameters make a configuration exactly when each is at least 1 and the settle interval is at least 125 ms,
and any others are refused with an error. -/
def Obligations.ConfigurationsAreExactlyTheLegalOnes : Prop :=
  ∀ p : Params,
    ((1 ≤ p.fClkHz ∧ 1 ≤ p.settleCycles ∧ p.fClkHz ≤ 8 * p.settleCycles ∧ 1 ≤ p.cssCycles ∧ 1 ≤ p.highCycles ∧
        1 ≤ p.lowCycles) → ∃ c, Config.make p = .ok c ∧ c.params = p) ∧
    (¬ (1 ≤ p.fClkHz ∧ 1 ≤ p.settleCycles ∧ p.fClkHz ≤ 8 * p.settleCycles ∧ 1 ≤ p.cssCycles ∧ 1 ≤ p.highCycles ∧
        1 ≤ p.lowCycles) → ∃ e, Config.make p = .error e) ∧
    (∀ c : Config, 1 ≤ c.fClkHz ∧ 1 ≤ c.settleCycles ∧ c.fClkHz ≤ 8 * c.settleCycles ∧ 1 ≤ c.cssCycles ∧
        1 ≤ c.highCycles ∧ 1 ≤ c.lowCycles)

/-- R51: a word is a command exactly when it selects the command's row of the opcode map, no word selects two rows, and
a word that selects none is reserved. -/
def Obligations.OpcodeMapSelectsCommands : Prop :=
  ∀ w : CommandWord,
    (∀ i, decode w = .ok i → selectsRow w (opcodeRow i) = true) ∧
    (∀ i, selectsRow w (opcodeRow i) = true → ∃ j, decode w = .ok j ∧ opcodeRow j = opcodeRow i) ∧
    (∀ i j, selectsRow w (opcodeRow i) = true → selectsRow w (opcodeRow j) = true → opcodeRow i = opcodeRow j) ∧
    ((∀ i, selectsRow w (opcodeRow i) = false) → ∃ k, decode w = .error k)

/-- R47, R49: a word decodes to a command exactly when it is that command's encoding, so decoding loses no operand bit
and no command has two words. -/
def Obligations.DecodeAndEncodeAgree : Prop := ∀ (w : CommandWord) (i : Instr), decode w = .ok i ↔ w = encode i

/-- Words written out from R51's table, and one of each kind of reserved word (95_test_vectors.md V-E). -/
def Obligations.WordsOfTheEncodingTableDecode : Prop :=
  decode 0b00100101#8 = .ok (.read 5#3) ∧ decode 0b01000000#8 = .ok .hot ∧ decode 0b01100000#8 = .ok .cold ∧
    decode 0b10000000#8 = .ok .faults ∧ decode 0b10100000#8 = .ok .raw ∧
    decode 0b00000000#8 = .error .unassignedOp ∧ decode 0b00101000#8 = .error .reservedBitsSet ∧
    decode 0b01000001#8 = .error .argumentSet

/-- R30: every register right after reset, whatever the build, and `cmd_ready = 1`. -/
def Obligations.ResetStateHoldsTheListedValues : Prop :=
  (∀ c : Config,
    (State.resetWith c).tReg = 0b000#3 ∧ (State.resetWith c).csN = true ∧ (State.resetWith c).sck = false ∧
    (State.resetWith c).frame = 0x00000000#32 ∧ (State.resetWith c).acc = 0x00000000#32 ∧
    (State.resetWith c).fsm = .idle ∧ (State.resetWith c).cnt = 0 ∧ (State.resetWith c).bit = 0#5 ∧
    (State.resetWith c).rspValid = false ∧ (State.resetWith c).rspErr = false ∧
    (State.resetWith c).rspData = 0x00000000#32 ∧ cmdReady (State.resetWith c) = true) ∧
  State.reset = State.resetWith Config.build

/-- R107: an edge with `rst = 1` gives every register its reset value from any state, whatever the other ports hold. -/
def Obligations.ResetEdgeGivesResetValues : Prop :=
  ∀ s : State, (portNow s).rst = true →
    ∃ t, step s = .next t ∧ t.tReg = 0b000#3 ∧ t.csN = true ∧ t.sck = false ∧ t.frame = 0x00000000#32 ∧
      t.acc = 0x00000000#32 ∧ t.fsm = .idle ∧ t.cnt = 0 ∧ t.bit = 0#5 ∧ t.rspValid = false ∧ t.rspErr = false ∧
      t.rspData = 0x00000000#32 ∧ t.cfg = s.cfg

/-- R109: after a reset edge, in mid-READ or not, and for as long as no command is offered, the pins are at their reset
levels, FRAME is zero and there is no response. -/
def Obligations.ResetAbandonsReadWithoutResponse : Prop :=
  ∀ (s : State) (n : Nat), (portNow s).rst = true → (∀ k, 1 ≤ k → k ≤ n → (portAt s k).cmdValid = false) →
    ∃ t, runEdges (n + 1) s = .next t ∧ t.csN = true ∧ t.sck = false ∧ t.tReg = 0b000#3 ∧
      t.frame = 0x00000000#32 ∧ t.fsm = .idle ∧ t.rspValid = false

/-! ## The handshake and the responses -/

/-- R53 with R95: when the next edge accepts a word that decodes to a well-formed command, the step is that command's
meaning. The step adds nothing around it. -/
def Obligations.StepRunsTheAcceptedCommand : Prop :=
  ∀ (s : State) (i : Instr), (portNow s).rst = false → (portNow s).cmdValid = true → s.fsm = .idle →
    decode (portNow s).cmd = .ok i → i.wellFormed = true → step s = exec i s

/-- R53: the command on `cmd` is accepted exactly when `rst = 0`, `cmd_valid = 1` and `cmd_ready = 1`; when it is not,
its value makes no difference, and neither does offering one while busy or in reset. -/
def Obligations.HandshakeAcceptsExactlyWhenReady : Prop :=
  ∀ s : State,
    (cmdReady s = true ↔ s.fsm = .idle) ∧
    ((portNow s).rst = false ∧ (portNow s).cmdValid = true ∧ cmdReady s = true →
      step s = match decode (portNow s).cmd with
        | .ok i => exec i s
        | .error _ => rejectReserved s) ∧
    ((portNow s).rst = false → (portNow s).cmdValid = false ∨ cmdReady s = false → step s = quietEdge s) ∧
    ((portNow s).rst = true ∨ (portNow s).cmdValid = false ∨ cmdReady s = false →
      ∀ w, step (withOffer (portNow s).cmdValid w s) = step s) ∧
    ((portNow s).rst = true ∨ cmdReady s = false → ∀ v w, step (withOffer v w s) = step s)

/-- The model's reading of exec (log 6): a command offered with `rst = 0` while a READ is in progress is turned away,
and the edge is the reader's own. -/
def Obligations.CommandOfferedWhileBusyIsTurnedAway : Prop :=
  ∀ (i : Instr) (s : State), s.fsm ≠ .idle → exec i s = .next (tick (advance s))

/-- R52: the reserved words are those of the three kinds, and accepting one gives the error response and changes
nothing else. -/
def Obligations.ReservedWordsGiveOnlyTheErrorResponse : Prop :=
  (∀ w : CommandWord, (∀ i, selectsRow w (opcodeRow i) = false) ↔
    (w.extractLsb' 5 3 = 0b000#3 ∨ w.extractLsb' 5 3 = 0b110#3 ∨ w.extractLsb' 5 3 = 0b111#3 ∨
      w.extractLsb' 3 2 ≠ 0b00#2 ∨ (w.extractLsb' 5 3 ≠ 0b001#3 ∧ w.extractLsb' 0 3 ≠ 0b000#3))) ∧
  (∀ s : State, accepts s = true → (∀ i, selectsRow (portNow s).cmd (opcodeRow i) = false) →
    step s = .next (tick { s with rspValid := true, rspErr := true, rspData := 0x00000000#32 }))

/-- R55: RSP_VALID, RSP_DATA and RSP_ERR after every edge with `rst = 0`. -/
def Obligations.ResponsesFollowTheHandshake : Prop :=
  ∀ s t : State, (portNow s).rst = false → step s = .next t →
    ((t.rspValid, t.rspData, t.rspErr) =
      match (if accepts s then acceptedResponse (decode (portNow s).cmd) s.frame
        else if completesRead s then some (0x00000000#32, false) else none) with
      | some (d, e) => (true, d, e)
      | none => (false, s.rspData, s.rspErr)) ∧
    (accepts s = true → completesRead s = false)

/-- R90: no edge and no command ends in a fault or a refusal. -/
def Obligations.EveryEdgeAndCommandAnswersANextState : Prop :=
  (∀ s : State, ∃ t, step s = .next t) ∧ (∀ (i : Instr) (s : State), ∃ t, exec i s = .next t)

/-! ## The accessors -/

/-- R86: HOT answers the sign-extended hot field, and 4 units of the answer are one degree. Nothing else changes. -/
def Obligations.HotReturnsTheSignedHotField : Prop :=
  ∀ s : State, s.fsm = .idle →
    ∃ d, exec .hot s = .next (tick { s with rspValid := true, rspErr := false, rspData := d }) ∧
      d.toInt = hotCode s.frame ∧ ((d.toInt : Int) : Rat) / 4 = hotCelsius s.frame ∧
      (∀ i, i < 14 → d.getLsbD i = s.frame.getLsbD (18 + i)) ∧
      (∀ i, 14 ≤ i → i < 32 → d.getLsbD i = s.frame.getLsbD 31)

/-- R87: COLD answers the sign-extended reference field, and 16 units of the answer are one degree. Nothing else
changes. -/
def Obligations.ColdReturnsTheSignedReferenceField : Prop :=
  ∀ s : State, s.fsm = .idle →
    ∃ d, exec .cold s = .next (tick { s with rspValid := true, rspErr := false, rspData := d }) ∧
      d.toInt = coldCode s.frame ∧ ((d.toInt : Int) : Rat) / 16 = coldCelsius s.frame ∧
      (∀ i, i < 12 → d.getLsbD i = s.frame.getLsbD (4 + i)) ∧
      (∀ i, 12 ≤ i → i < 32 → d.getLsbD i = s.frame.getLsbD 15)

/-- R82, R83, R88: FAULTS answers 0 unless the summary is set, then 1 for SCV over 2 for SCG over 3 for OC over 0. It
reads bits 16, 2, 1 and 0 only, and nothing else changes. -/
def Obligations.FaultsReturnsTheFirstFaultByPriority : Prop :=
  ∀ s : State, s.fsm = .idle →
    ∃ d, exec .faults s = .next (tick { s with rspValid := true, rspErr := false, rspData := d }) ∧
      d.toNat =
        (if s.frame.getLsbD 16 = false then 0 else if s.frame.getLsbD 2 = true then 1
          else if s.frame.getLsbD 1 = true then 2 else if s.frame.getLsbD 0 = true then 3 else 0)

/-- R89: RAW answers FRAME. Nothing else changes. -/
def Obligations.RawReturnsTheFrame : Prop :=
  ∀ s : State, s.fsm = .idle →
    exec .raw s = .next (tick { s with rspValid := true, rspErr := false, rspData := s.frame })

/-- R77: the hot code is the two's complement value of bits [31:18], and takes every value of its range, each k with
frame bits [17:0] zero, as k/4 degrees. -/
def Obligations.HotCodeCoversItsWholeRange : Prop :=
  (∀ f : Word, hotCode f = (if f.getLsbD 31 then ((f.toNat / 2 ^ 18 : Nat) : Int) - 2 ^ 14 else ((f.toNat / 2 ^ 18 : Nat) : Int)) ∧
    -8192 ≤ hotCode f ∧ hotCode f ≤ 8191 ∧ hotCelsius f * 4 = (hotCode f : Rat)) ∧
  (∀ k : Int, -8192 ≤ k → k ≤ 8191 →
    ∃ f : Word, f.toNat % 2 ^ 18 = 0 ∧ hotCode f = k ∧ hotCelsius f = (k : Rat) / 4)

/-- R79: the reference code is the two's complement value of bits [15:4], which is the source's expression
`(frame & 0xFFF0) >> 4`, and takes every value of its range, as k/16 degrees. -/
def Obligations.ColdCodeCoversItsWholeRange : Prop :=
  (∀ f : Word, ((f &&& 0xFFF0#32) >>> 4).toNat = (coldField f).toNat ∧
    coldCode f = (if f.getLsbD 15 then (((f &&& 0xFFF0#32) >>> 4).toNat : Int) - 2 ^ 12
      else (((f &&& 0xFFF0#32) >>> 4).toNat : Int)) ∧
    -2048 ≤ coldCode f ∧ coldCode f ≤ 2047 ∧ coldCelsius f * 16 = (coldCode f : Rat)) ∧
  (∀ k : Int, -2048 ≤ k → k ≤ 2047 → ∃ f : Word, coldCode f = k ∧ coldCelsius f = (k : Rat) / 16)

/-- R78: the source's invert, add one and negate gives the signed value of a field, for every field width. -/
def Obligations.InversionAlgorithmIsTheSignedValue : Prop :=
  ∀ (n : Nat) (v : BitVec n), 0 < n →
    signedValue n v = invertAndNegate n v.toNat ∧ signedValue n v = v.toInt

/-- R81: HOT answers the same for any two frames that agree in bits [31:18], the fault bits among the others. -/
def Obligations.HotDependsOnlyOnItsField : Prop :=
  ∀ (s : State) (f : Word), s.fsm = .idle → (∀ i, 18 ≤ i → i < 32 → f.getLsbD i = s.frame.getLsbD i) →
    responseOf (exec .hot { s with frame := f }) = responseOf (exec .hot s)

/-- R80: COLD answers the same for any two frames that agree in bits [15:4], whatever the fault bits and the hot
field. -/
def Obligations.ColdDependsOnlyOnItsField : Prop :=
  ∀ (s : State) (f : Word), s.fsm = .idle → (∀ i, 4 ≤ i → i < 16 → f.getLsbD i = s.frame.getLsbD i) →
    responseOf (exec .cold { s with frame := f }) = responseOf (exec .cold s)

/-- R84: frame bits 17 and 3 make no difference to HOT, COLD and FAULTS, and RAW returns them as captured. -/
def Obligations.ReservedFrameBitsReachOnlyRaw : Prop :=
  ∀ (s : State) (f : Word), s.fsm = .idle →
    (∀ i, i ≠ 17 → i ≠ 3 → f.getLsbD i = s.frame.getLsbD i) →
    responseOf (exec .hot { s with frame := f }) = responseOf (exec .hot s) ∧
    responseOf (exec .cold { s with frame := f }) = responseOf (exec .cold s) ∧
    responseOf (exec .faults { s with frame := f }) = responseOf (exec .faults s) ∧
    responseOf (exec .raw { s with frame := f }) = some (true, f, false)

/-- R76: an accessor writes the response registers, from FRAME just before the edge, and no other register; it makes no
pin event. -/
def Obligations.AccessorsWriteOnlyTheResponse : Prop :=
  ∀ (i : Instr) (s : State), isAccessor i = true → s.fsm = .idle →
    ∃ t, exec i s = .next t ∧ SameButResponse s t ∧ t.rspValid = true ∧
      some (t.rspData, t.rspErr) = acceptedResponse (.ok i) s.frame ∧
      t.inputs = s.inputs.tail ∧ t.edgeNo = s.edgeNo + 1

/-- R38: an accessor accepted twice answers the same word both times, whatever the `n` edges between accept, if none of
them accepts a READ or resets: nothing at all (`n = 0`), quiet edges, reserved words, accessors. No register but the
response's has changed. -/
def Obligations.AccessorsAreIdempotent : Prop :=
  ∀ (i : Instr) (s t u : State) (n : Nat), isAccessor i = true → s.fsm = .idle → exec i s = .next t →
    NoReadFor n t → runEdges n t = .next u →
    ∃ v, exec i u = .next v ∧ v.rspValid = true ∧ v.rspData = t.rspData ∧ v.rspErr = t.rspErr ∧ SameButResponse s v

/-- R85: while FRAME is zero, HOT, COLD and FAULTS answer 0 and RAW answers `0x00000000`. -/
def Obligations.ZeroFrameDecodesToZero : Prop :=
  ∀ (i : Instr) (s : State), isAccessor i = true → s.fsm = .idle → s.frame = 0x00000000#32 →
    responseOf (exec i s) = some (true, 0x00000000#32, false)

/-! ## The channel selector and the serial reader, edge by edge -/

/-- R69: what an edge with `rst = 0` does in IDLE: READ c starts the settle interval; an accessor, a reserved word or
nothing leaves the reader's registers and the pins alone. -/
def Obligations.IdleEdgeStartsReadOrKeepsTheReader : Prop :=
  ∀ s : State, s.fsm = .idle → (portNow s).rst = false →
    (∀ c, exec (.read c) s = .next (tick { s with
        tReg := c, trace := ⟨s.edgeNo, .t c⟩ :: s.trace, acc := 0x00000000#32, cnt := 0, fsm := .settle,
        rspValid := false })) ∧
    (∀ c, AcceptsRead c s → step s = exec (.read c) s) ∧
    ((∀ c, ¬ AcceptsRead c s) → ∃ t, step s = .next t ∧ SameButResponse s t)

/-- R59, R49: the channel a READ puts on T_REG is `4*T2 + 2*T1 + T0`. -/
def Obligations.ReadDrivesTheChannelOnTheMuxLines : Prop :=
  ∀ (s : State) (c : Channel), s.fsm = .idle →
    ∃ t, exec (.read c) s = .next t ∧
      4 * (muxLine t.tReg 2).toNat + 2 * (muxLine t.tReg 1).toNat + (muxLine t.tReg 0).toNat = c.toNat

/-- R70. -/
def Obligations.SettleCountsThenDrivesCsLow : Prop :=
  ∀ s : State, s.fsm = .settle → (portNow s).rst = false →
    step s = .next (tick
      (if s.cnt = s.cfg.settleCycles - 1 then
        { s with csN := false, trace := ⟨s.edgeNo, .csN false⟩ :: s.trace, cnt := 0, fsm := .css, rspValid := false }
      else { s with cnt := s.cnt + 1, rspValid := false }))

/-- R71. -/
def Obligations.CssCountsThenDrivesSckHigh : Prop :=
  ∀ s : State, s.fsm = .css → (portNow s).rst = false →
    step s = .next (tick
      (if s.cnt = s.cfg.cssCycles - 1 then
        { s with sck := true, trace := ⟨s.edgeNo, .sck true⟩ :: s.trace, bit := 31#5, cnt := 0, fsm := .high,
                 rspValid := false }
      else { s with cnt := s.cnt + 1, rspValid := false }))

/-- R72: at the end of the high phase bit BIT of ACC takes `so`, no other bit of ACC changes, and SCK falls. -/
def Obligations.HighPhaseSamplesSoAtItsEnd : Prop :=
  ∀ s : State, s.fsm = .high → (portNow s).rst = false →
    (s.cnt = s.cfg.highCycles - 1 →
      ∃ a, step s = .next (tick { s with
          sck := false, trace := ⟨s.edgeNo, .sck false⟩ :: s.trace, acc := a, cnt := 0, fsm := .low,
          rspValid := false }) ∧
        a.getLsbD s.bit.toNat = sampleSo s ∧ (∀ i, i ≠ s.bit.toNat → a.getLsbD i = s.acc.getLsbD i)) ∧
    (s.cnt ≠ s.cfg.highCycles - 1 → step s = .next (tick { s with cnt := s.cnt + 1, rspValid := false }))

/-- R73: at the end of the low phase the next bit's SCK rises, or after bit 0 the READ completes. -/
def Obligations.LowPhaseAdvancesOrCompletesRead : Prop :=
  ∀ s : State, s.fsm = .low → (portNow s).rst = false →
    (s.cnt = s.cfg.lowCycles - 1 → s.bit = 0#5 →
      step s = .next (tick { s with
        csN := true, trace := ⟨s.edgeNo, .csN true⟩ :: s.trace, frame := s.acc, cnt := 0, fsm := .idle,
        rspValid := true, rspErr := false, rspData := 0x00000000#32 })) ∧
    (s.cnt = s.cfg.lowCycles - 1 → s.bit ≠ 0#5 →
      ∃ b, b.toNat + 1 = s.bit.toNat ∧
        step s = .next (tick { s with
          sck := true, trace := ⟨s.edgeNo, .sck true⟩ :: s.trace, bit := b, cnt := 0, fsm := .high,
          rspValid := false })) ∧
    (s.cnt ≠ s.cfg.lowCycles - 1 → step s = .next (tick { s with cnt := s.cnt + 1, rspValid := false }))

/-- R20: FRAME after any edge: zero at reset, all of ACC at the edge that completes a READ, and otherwise as it was. -/
def Obligations.FrameChangesOnlyAtCompletionAndReset : Prop :=
  ∀ s t : State, step s = .next t →
    t.frame = if (portNow s).rst then 0x00000000#32 else if completesRead s then s.acc else s.frame

/-- R60: T_REG after any edge: 0 at reset, the channel at the edge that accepts a READ, which starts the settle
interval, and otherwise as it was. -/
def Obligations.MuxRegisterChangesOnlyAtAcceptanceAndReset : Prop :=
  ∀ s t : State, step s = .next t →
    ((portNow s).rst = true → t.tReg = 0b000#3) ∧
    (∀ c, AcceptsRead c s → t.tReg = c ∧ t.fsm = .settle ∧ t.cnt = 0) ∧
    ((portNow s).rst = false → (∀ c, ¬ AcceptsRead c s) → t.tReg = s.tReg)

/-! ## The invariant -/

/-- The invariant holds right after reset, whatever the build (R30, R27, R28). Its clause that the trace tells the pins
holds there because the model records Construction's three drives in the trace: that is the model's convention (log 4),
and no rule of the spec. -/
def Obligations.InvariantHoldsAfterReset : Prop := (∀ c : Config, Inv (State.resetWith c)) ∧ Inv State.reset

/-- R111: a reset edge leads from any register values to the invariant, if no event of the trace is in the future. -/
def Obligations.ResetReachesTheInvariantFromAnyRegisters : Prop :=
  ∀ s t : State, (∀ e ∈ s.trace, e.edgeNo < s.edgeNo) → (portNow s).rst = true → step s = .next t → Inv t

/-- R17, R27, R28: every edge keeps the invariant: the pins are the phase's, the counters are in range, ACC is zero
where nothing is sampled yet and equals FRAME between reads, no response comes while a READ is in progress, an error
response carries no data, and the trace tells the pins. -/
def Obligations.EveryStepKeepsTheInvariant : Prop := ∀ s t : State, Inv s → step s = .next t → Inv t

/-! ## READ as a whole -/

/-- R74, R62: from every state whose next edge accepts READ c, with any values of SO and of the offers made meanwhile
and no reset, `L_READ` edges after the accepting one the cycle level stands exactly where the transaction level says:
every register, every pin event and its edge, and the inputs used up. -/
def Obligations.ReadRefinesTheTransaction : Prop :=
  ∀ (s : State) (c : Channel), RunsRead c s → runEdges (s.cfg.lRead + 1) s = .next (transactRead c s)

/-- R67: the pin events of READ c, each at its edge, and no other; and the sample of SO each falling edge takes. -/
def Obligations.ReadMakesExactlyTheListedPinEvents : Prop :=
  ∀ (s : State) (c : Channel), RunsRead c s →
    ∃ t, runEdges (s.cfg.lRead + 1) s = .next t ∧
      t.trace = (readEvents s.cfg c s.edgeNo).reverse ++ s.trace ∧ t.edgeNo = s.edgeNo + s.cfg.lRead + 1 ∧
      ∀ k, k < 32 → t.frame.getLsbD (31 - k) = soAt s (sampleOffset s.cfg k)

/-- R63, R33: the frame READ publishes is the sum of `b_i * 2^i`, where `b_i` is the sample number `31 - i`. -/
def Obligations.ReadCapturesSamplesMsbFirst : Prop :=
  ∀ (s : State) (c : Channel), RunsRead c s →
    ∃ t, runEdges (s.cfg.lRead + 1) s = .next t ∧
      t.frame.toNat = sampledSum (fun i => soAt s (sampleOffset s.cfg (31 - i)))

/-- R65: until the edge that completes the READ, FRAME holds the previous frame, and that edge puts all of ACC into
it. T_REG holds the channel and no response comes meanwhile. -/
def Obligations.ReadPublishesTheFrameAtOneEdge : Prop :=
  ∀ (s : State) (c : Channel), RunsRead c s →
    (∀ n t, 1 ≤ n → n ≤ s.cfg.lRead → runEdges n s = .next t →
      t.frame = s.frame ∧ t.tReg = c ∧ t.rspValid = false ∧ t.rspData = s.rspData ∧ t.rspErr = s.rspErr) ∧
    (∃ t u, runEdges s.cfg.lRead s = .next t ∧ runEdges (s.cfg.lRead + 1) s = .next u ∧ u.frame = t.acc)

/-- R68: READ takes `L_READ` periods, at least 0.125 s: busy after every edge before the completing one, ready after
it, with the pins idle, T_REG the channel and the response (0, 0). -/
def Obligations.ReadCompletesInExactlyLReadPeriods : Prop :=
  ∀ (s : State) (c : Channel), RunsRead c s →
    (∀ n t, 1 ≤ n → n ≤ s.cfg.lRead → runEdges n s = .next t → cmdReady t = false) ∧
    (∃ t, runEdges (s.cfg.lRead + 1) s = .next t ∧ cmdReady t = true ∧ t.tReg = c ∧ t.csN = true ∧ t.sck = false ∧
      t.rspValid = true ∧ t.rspData = 0x00000000#32 ∧ t.rspErr = false) ∧
    (1 : Rat) / 8 ≤ (s.cfg.lRead : Rat) / (s.cfg.fClkHz : Rat)

/-- R102, under ENV, the premise about the environment: READ captures the converter's frame. -/
def Obligations.ReadCapturesTheConverterFrameUnderEnv : Prop :=
  ∀ (s : State) (c : Channel) (f : Word), RunsRead c s → EnvPresents f s →
    ∃ t, runEdges (s.cfg.lRead + 1) s = .next t ∧ t.frame = f ∧ t.tReg = c

/-- R63, R26: what ACC, CNT and BIT held before a READ reaches nothing after it. -/
def Obligations.ReadForgetsTheOldHiddenRegisters : Prop :=
  ∀ (s : State) (c : Channel) (a : Word) (n : Nat) (b : BitIndex), RunsRead c s →
    runEdges (s.cfg.lRead + 1) { s with acc := a, cnt := n, bit := b } = runEdges (s.cfg.lRead + 1) s

/-- R118, R41: an accessor offered at any edge after a READ's completion edge, `m` edges after it with no READ accepted
and no reset among them, is accepted and answers from that READ's frame, whatever else the `m` edges accept; at the
completion edge itself nothing can be accepted. -/
def Obligations.AccessorAfterReadSeesItsFrame : Prop :=
  ∀ (s t u : State) (c : Channel) (i : Instr) (m : Nat), RunsRead c s → isAccessor i = true →
    runEdges (s.cfg.lRead + 1) s = .next t → NoReadFor m t → runEdges m t = .next u →
    (portNow u).rst = false → (portNow u).cmdValid = true → (portNow u).cmd = encode i →
    ∃ r v, runEdges s.cfg.lRead s = .next r ∧ cmdReady r = false ∧ cmdReady u = true ∧
      runEdges (s.cfg.lRead + m + 2) s = .next v ∧
      v.rspValid = true ∧ some (v.rspData, v.rspErr) = acceptedResponse (.ok i) t.frame

/-- R119: from any legal state between reads CS stays high for at least `1 + P_SETTLE_CYCLES` periods, whatever the host
does. -/
def Obligations.ChipSelectStaysHighBetweenReads : Prop :=
  ∀ (s t : State) (n : Nat), Inv s → s.fsm = .idle → n ≤ s.cfg.settleCycles → runEdges n s = .next t → t.csN = true
end

