-- ==== Sys2Proof/Laws/State.lean ====
section
/-! SUPPORT. Laws/State.lean: one lemma per field for each operation that updates the state. -/

namespace Sys2Proof.Machine

section Drive

variable (d : PinDrive) (s : State)

@[simp] theorem drive_cfg : (drive d s).cfg = s.cfg := by cases d <;> rfl
@[simp] theorem drive_inputs : (drive d s).inputs = s.inputs := by cases d <;> rfl
@[simp] theorem drive_edgeNo : (drive d s).edgeNo = s.edgeNo := by cases d <;> rfl
@[simp] theorem drive_trace : (drive d s).trace = ⟨s.edgeNo, d⟩ :: s.trace := by cases d <;> rfl
@[simp] theorem drive_frame : (drive d s).frame = s.frame := by cases d <;> rfl
@[simp] theorem drive_acc : (drive d s).acc = s.acc := by cases d <;> rfl
@[simp] theorem drive_fsm : (drive d s).fsm = s.fsm := by cases d <;> rfl
@[simp] theorem drive_cnt : (drive d s).cnt = s.cnt := by cases d <;> rfl
@[simp] theorem drive_bit : (drive d s).bit = s.bit := by cases d <;> rfl
@[simp] theorem drive_rspValid : (drive d s).rspValid = s.rspValid := by cases d <;> rfl
@[simp] theorem drive_rspErr : (drive d s).rspErr = s.rspErr := by cases d <;> rfl
@[simp] theorem drive_rspData : (drive d s).rspData = s.rspData := by cases d <;> rfl
@[simp] theorem drive_t_tReg (v : Channel) : (drive (.t v) s).tReg = v := rfl
@[simp] theorem drive_t_csN (v : Channel) : (drive (.t v) s).csN = s.csN := rfl
@[simp] theorem drive_t_sck (v : Channel) : (drive (.t v) s).sck = s.sck := rfl
@[simp] theorem drive_csN_tReg (v : Bool) : (drive (.csN v) s).tReg = s.tReg := rfl
@[simp] theorem drive_csN_csN (v : Bool) : (drive (.csN v) s).csN = v := rfl
@[simp] theorem drive_csN_sck (v : Bool) : (drive (.csN v) s).sck = s.sck := rfl
@[simp] theorem drive_sck_tReg (v : Bool) : (drive (.sck v) s).tReg = s.tReg := rfl
@[simp] theorem drive_sck_csN (v : Bool) : (drive (.sck v) s).csN = s.csN := rfl
@[simp] theorem drive_sck_sck (v : Bool) : (drive (.sck v) s).sck = v := rfl

end Drive

section Respond

variable (w : Word) (e : Bool) (s : State)

@[simp] theorem respond_cfg : (respond w e s).cfg = s.cfg := rfl
@[simp] theorem respond_inputs : (respond w e s).inputs = s.inputs := rfl
@[simp] theorem respond_edgeNo : (respond w e s).edgeNo = s.edgeNo := rfl
@[simp] theorem respond_trace : (respond w e s).trace = s.trace := rfl
@[simp] theorem respond_tReg : (respond w e s).tReg = s.tReg := rfl
@[simp] theorem respond_csN : (respond w e s).csN = s.csN := rfl
@[simp] theorem respond_sck : (respond w e s).sck = s.sck := rfl
@[simp] theorem respond_frame : (respond w e s).frame = s.frame := rfl
@[simp] theorem respond_acc : (respond w e s).acc = s.acc := rfl
@[simp] theorem respond_fsm : (respond w e s).fsm = s.fsm := rfl
@[simp] theorem respond_cnt : (respond w e s).cnt = s.cnt := rfl
@[simp] theorem respond_bit : (respond w e s).bit = s.bit := rfl
@[simp] theorem respond_rspValid : (respond w e s).rspValid = true := rfl
@[simp] theorem respond_rspErr : (respond w e s).rspErr = e := rfl
@[simp] theorem respond_rspData : (respond w e s).rspData = w := rfl

end Respond

section NoResponse

variable (s : State)

@[simp] theorem noResponse_cfg : (noResponse s).cfg = s.cfg := rfl
@[simp] theorem noResponse_inputs : (noResponse s).inputs = s.inputs := rfl
@[simp] theorem noResponse_edgeNo : (noResponse s).edgeNo = s.edgeNo := rfl
@[simp] theorem noResponse_trace : (noResponse s).trace = s.trace := rfl
@[simp] theorem noResponse_tReg : (noResponse s).tReg = s.tReg := rfl
@[simp] theorem noResponse_csN : (noResponse s).csN = s.csN := rfl
@[simp] theorem noResponse_sck : (noResponse s).sck = s.sck := rfl
@[simp] theorem noResponse_frame : (noResponse s).frame = s.frame := rfl
@[simp] theorem noResponse_acc : (noResponse s).acc = s.acc := rfl
@[simp] theorem noResponse_fsm : (noResponse s).fsm = s.fsm := rfl
@[simp] theorem noResponse_cnt : (noResponse s).cnt = s.cnt := rfl
@[simp] theorem noResponse_bit : (noResponse s).bit = s.bit := rfl
@[simp] theorem noResponse_rspValid : (noResponse s).rspValid = false := rfl
@[simp] theorem noResponse_rspErr : (noResponse s).rspErr = s.rspErr := rfl
@[simp] theorem noResponse_rspData : (noResponse s).rspData = s.rspData := rfl

end NoResponse

section Tick

variable (s : State)

@[simp] theorem tick_cfg : (tick s).cfg = s.cfg := rfl
@[simp] theorem tick_inputs : (tick s).inputs = s.inputs.tail := rfl
@[simp] theorem tick_edgeNo : (tick s).edgeNo = s.edgeNo + 1 := rfl
@[simp] theorem tick_trace : (tick s).trace = s.trace := rfl
@[simp] theorem tick_tReg : (tick s).tReg = s.tReg := rfl
@[simp] theorem tick_csN : (tick s).csN = s.csN := rfl
@[simp] theorem tick_sck : (tick s).sck = s.sck := rfl
@[simp] theorem tick_frame : (tick s).frame = s.frame := rfl
@[simp] theorem tick_acc : (tick s).acc = s.acc := rfl
@[simp] theorem tick_fsm : (tick s).fsm = s.fsm := rfl
@[simp] theorem tick_cnt : (tick s).cnt = s.cnt := rfl
@[simp] theorem tick_bit : (tick s).bit = s.bit := rfl
@[simp] theorem tick_rspValid : (tick s).rspValid = s.rspValid := rfl
@[simp] theorem tick_rspErr : (tick s).rspErr = s.rspErr := rfl
@[simp] theorem tick_rspData : (tick s).rspData = s.rspData := rfl

end Tick

end Sys2Proof.Machine
end

