-- ==== Sys2Proof/Laws/Ops.lean ====
section
/-! SUPPORT. Laws/Ops.lean: what each shared operation can do, said once. -/

namespace Sys2Proof.Machine

/-- The bits of a word after one of them is replaced (R72): that one is the new bit, every other is as it was. -/
theorem writeBit_getLsbD (w : Word) (i : BitIndex) (b : Bool) (j : Nat) :
    (writeBit w i b).getLsbD j = if j = i.toNat then b else w.getLsbD j := by
  have hi := i.isLt
  by_cases h : j = i.toNat
  · subst h
    cases b <;> simp [writeBit, hi]
  · have : ¬ (j < 32 ∧ ¬ j < i.toNat ∧ j - i.toNat = 0) := by omega
    by_cases hj : j < 32
    · cases b <;> simp [writeBit, h, hj] <;> grind
    · cases b <;> simp [writeBit, h, hj, BitVec.getLsbD_of_ge w j (by omega)]

/-- The inputs before the edges after one edge are the ones before, one edge sooner. -/
@[simp] theorem portAt_tick (s : State) (k : Nat) : portAt (tick s) k = portAt s (k + 1) := by
  unfold portAt
  cases h : s.inputs <;> simp [h]

/-- So are the levels of SO, draws included. -/
@[simp] theorem soAt_tick (s : State) (k : Nat) : soAt (tick s) k = soAt s (k + 1) := by
  simp only [soAt, portAt_tick, tick_edgeNo]
  have : s.edgeNo + 1 + k = s.edgeNo + (k + 1) := by omega
  rw [this]

/-- The input ports depend on `inputs` alone. -/
theorem portAt_congr {s t : State} (h : t.inputs = s.inputs) (k : Nat) : portAt t k = portAt s k := by
  unfold portAt
  rw [h]

/-- The level of SO depends on `inputs` and `edgeNo` alone. -/
theorem soAt_congr {s t : State} (hi : t.inputs = s.inputs) (he : t.edgeNo = s.edgeNo) (k : Nat) :
    soAt t k = soAt s k := by
  unfold soAt
  rw [portAt_congr hi, he]

/-- A command is ready exactly in IDLE (R18). -/
theorem cmdReady_iff (s : State) : cmdReady s = true ↔ s.fsm = .idle := by simp [cmdReady]

/-- The next edge accepts exactly when R53 says. -/
theorem accepts_iff (s : State) :
    accepts s = true ↔ (portNow s).rst = false ∧ (portNow s).cmdValid = true ∧ s.fsm = .idle := by
  simp [accepts, cmdReady_iff, and_assoc]

/-- What an accepted command does is its effect and the end of the edge (R53). -/
theorem onAccept_idle {effect : State → State} {s : State} (h : s.fsm = .idle) :
    onAccept effect s = .next (tick (effect s)) := by
  simp [onAccept, cmdReady, h]

/-- A command turned away leaves the edge to the FSM (R53). -/
theorem onAccept_busy {effect : State → State} {s : State} (h : s.fsm ≠ .idle) :
    onAccept effect s = quietEdge s := by
  simp [onAccept, quietEdge, cmdReady, h]

/-- The registers after a reset (R107). -/
theorem resetRegisters_eq (s : State) :
    resetRegisters s =
      { State.resetWith s.cfg with
        inputs := s.inputs
        edgeNo := s.edgeNo
        trace := ⟨s.edgeNo, .csN true⟩ :: ⟨s.edgeNo, .t 0⟩ :: ⟨s.edgeNo, .sck false⟩ :: s.trace } := rfl

end Sys2Proof.Machine
end

