-- ==== Sys2Proof/Laws/PerInstr.lean ====
section
/-! SUPPORT. Laws/PerInstr.lean: what holds of every command as syntax, one lemma a constructor. -/

namespace Sys2Proof.Laws.Encoding

/-- The command is well-formed, its word is a well-formed word, and the word selects the command's own row of the
opcode map (30_encoding.md R47, R51). -/
def Statement (i : Instr) : Prop :=
  i.wellFormed = true ∧ wordWellFormed (encode i) = true ∧ selectsRow (encode i) (opcodeRow i) = true

theorem read (c : Channel) : Statement (.read c) := by
  unfold Statement
  revert c
  decide

theorem hot : Statement .hot := by unfold Statement; decide

theorem cold : Statement .cold := by unfold Statement; decide

theorem faults : Statement .faults := by unfold Statement; decide

theorem raw : Statement .raw := by unfold Statement; decide

end Sys2Proof.Laws.Encoding
end

