-- ==== Sys2Proof/Laws/Reader.lean ====
section
/-! SUPPORT. Laws/Reader.lean: the serial reader's rules (40_select_and_read.md R69 to R73) as equations of `advance`, one
for each way a phase can go. -/

namespace Sys2Proof.Machine

variable {s : State}

/-- R69, an edge that accepts nothing. -/
theorem advance_idle (h : s.fsm = .idle) : advance s = noResponse s := by simp [advance, h]

/-- R70, before the last period. -/
theorem advance_settle_on (h : s.fsm = .settle) (hc : s.cnt ≠ s.cfg.settleCycles - 1) :
    advance s = countOn (noResponse s) := by simp [advance, settleEdge, h, hc]

/-- R70, the last period: CS falls. -/
theorem advance_settle_end (h : s.fsm = .settle) (hc : s.cnt = s.cfg.settleCycles - 1) :
    advance s = { drive (.csN false) (noResponse s) with cnt := 0, fsm := .css } := by
  simp [advance, settleEdge, h, hc]

/-- R71, before the last period. -/
theorem advance_css_on (h : s.fsm = .css) (hc : s.cnt ≠ s.cfg.cssCycles - 1) :
    advance s = countOn (noResponse s) := by simp [advance, cssEdge, h, hc]

/-- R71, the last period: SCK rises for bit 31. -/
theorem advance_css_end (h : s.fsm = .css) (hc : s.cnt = s.cfg.cssCycles - 1) :
    advance s = { drive (.sck true) (noResponse s) with bit := 31#5, cnt := 0, fsm := .high } := by
  simp [advance, cssEdge, h, hc]

/-- R72, before the last period. -/
theorem advance_high_on (h : s.fsm = .high) (hc : s.cnt ≠ s.cfg.highCycles - 1) :
    advance s = countOn (noResponse s) := by simp [advance, highEdge, h, hc]

/-- R72, the last period: the sample is taken and SCK falls. -/
theorem advance_high_end (h : s.fsm = .high) (hc : s.cnt = s.cfg.highCycles - 1) :
    advance s =
      { drive (.sck false) (noResponse s) with
        acc := writeBit s.acc s.bit (sampleSo s), cnt := 0, fsm := .low } := by
  simp [advance, highEdge, h, hc]
  rfl

/-- R73, before the last period. -/
theorem advance_low_on (h : s.fsm = .low) (hc : s.cnt ≠ s.cfg.lowCycles - 1) :
    advance s = countOn (noResponse s) := by simp [advance, lowEdge, h, hc]

/-- R73, the last period of a bit above bit 0: SCK rises for the next bit. -/
theorem advance_low_next (h : s.fsm = .low) (hc : s.cnt = s.cfg.lowCycles - 1) (hb : s.bit ≠ 0#5) :
    advance s =
      { drive (.sck true) (noResponse s) with bit := s.bit - 1#5, cnt := 0, fsm := .high } := by
  simp [advance, lowEdge, h, hc, hb]

/-- R73, the last period of bit 0: the READ completes. -/
theorem advance_low_end (h : s.fsm = .low) (hc : s.cnt = s.cfg.lowCycles - 1) (hb : s.bit = 0#5) :
    advance s = completeRead (noResponse s) := by
  simp [advance, lowEdge, h, hc, hb]

/-- Everything an edge that accepts nothing can do (R69 to R73). -/
theorem advance_cases (s : State) :
    (s.fsm = .idle ∧ advance s = noResponse s) ∨
    (s.fsm ≠ .idle ∧ advance s = countOn (noResponse s) ∧
      ((s.fsm = .settle ∧ s.cnt ≠ s.cfg.settleCycles - 1) ∨ (s.fsm = .css ∧ s.cnt ≠ s.cfg.cssCycles - 1) ∨
        (s.fsm = .high ∧ s.cnt ≠ s.cfg.highCycles - 1) ∨ (s.fsm = .low ∧ s.cnt ≠ s.cfg.lowCycles - 1))) ∨
    (s.fsm = .settle ∧ s.cnt = s.cfg.settleCycles - 1 ∧
      advance s = { drive (.csN false) (noResponse s) with cnt := 0, fsm := .css }) ∨
    (s.fsm = .css ∧ s.cnt = s.cfg.cssCycles - 1 ∧
      advance s = { drive (.sck true) (noResponse s) with bit := 31#5, cnt := 0, fsm := .high }) ∨
    (s.fsm = .high ∧ s.cnt = s.cfg.highCycles - 1 ∧
      advance s = { drive (.sck false) (noResponse s) with
        acc := writeBit s.acc s.bit (sampleSo s), cnt := 0, fsm := .low }) ∨
    (s.fsm = .low ∧ s.cnt = s.cfg.lowCycles - 1 ∧ s.bit ≠ 0#5 ∧
      advance s = { drive (.sck true) (noResponse s) with bit := s.bit - 1#5, cnt := 0, fsm := .high }) ∨
    (s.fsm = .low ∧ s.cnt = s.cfg.lowCycles - 1 ∧ s.bit = 0#5 ∧ advance s = completeRead (noResponse s)) := by
  cases h : s.fsm with
  | idle => exact .inl ⟨rfl, advance_idle h⟩
  | settle =>
    by_cases hc : s.cnt = s.cfg.settleCycles - 1
    · simp [hc, advance_settle_end h hc]
    · simp [hc, advance_settle_on h hc]
  | css =>
    by_cases hc : s.cnt = s.cfg.cssCycles - 1
    · simp [hc, advance_css_end h hc]
    · simp [hc, advance_css_on h hc]
  | high =>
    by_cases hc : s.cnt = s.cfg.highCycles - 1
    · simp [hc, advance_high_end h hc]
    · simp [hc, advance_high_on h hc]
  | low =>
    by_cases hc : s.cnt = s.cfg.lowCycles - 1
    · by_cases hb : s.bit = 0#5
      · simp [hc, hb, advance_low_end h hc hb]
      · simp [hc, hb, advance_low_next h hc hb]
    · simp [hc, advance_low_on h hc]

/-- The serial reader leaves the inputs to come alone. -/
@[simp] theorem advance_inputs (s : State) : (advance s).inputs = s.inputs := by
  rcases advance_cases s with ⟨-, h⟩ | ⟨-, h, -⟩ | ⟨-, -, h⟩ | ⟨-, -, h⟩ | ⟨-, -, h⟩ | ⟨-, -, -, h⟩ | ⟨-, -, -, h⟩ <;>
    rw [h] <;> rfl

end Sys2Proof.Machine
end

