-- ==== Sys2Proof/Laws/Step.lean ====
section
/-! SUPPORT. Laws/Step.lean: everything one edge can do, and runs of edges cut in two. -/

namespace Sys2Proof.Machine

/-- The state just before the end of an edge that accepts this command (R69, R76). -/
def acceptEffect (i : Instr) (s : State) : State :=
  match i with
  | .read c => startRead c s
  | .hot => respond (hotWord s.frame) false s
  | .cold => respond (coldWord s.frame) false s
  | .faults => respond (faultsWord s.frame) false s
  | .raw => respond s.frame false s

/-- What exec does in IDLE: the command's effect and the end of the edge. -/
theorem exec_idle (i : Instr) {s : State} (h : s.fsm = .idle) :
    exec i s = .next (tick (acceptEffect i s)) := by
  cases i <;> exact onAccept_idle h

/-- What exec does while a READ is in progress: the command is turned away (R53). -/
theorem exec_busy (i : Instr) {s : State} (h : s.fsm ≠ .idle) : exec i s = quietEdge s := by
  cases i <;> exact onAccept_busy h

/-- The state just before the end of the next edge (R95). -/
def edgeEffect (s : State) : State :=
  if (portNow s).rst then resetRegisters s
  else if accepts s then
    match decode (portNow s).cmd with
    | .ok i => acceptEffect i s
    | .error _ => respond 0x00000000#32 true s
  else advance s

/-- A step is the edge's effect and the end of the edge: it always answers a next state (R90). -/
theorem step_eq (s : State) : step s = .next (tick (edgeEffect s)) := by
  unfold step edgeEffect
  split
  · rfl
  · split
    · rename_i ha
      have hi := ((accepts_iff s).mp ha).2.2
      cases decode (portNow s).cmd with
      | ok i => exact exec_idle i hi
      | error _ => exact onAccept_idle hi
    · rfl

/-- An edge with `rst = 0` while a READ is in progress accepts nothing (R53). -/
theorem edgeEffect_busy {s : State} (hr : (portNow s).rst = false) (h : s.fsm ≠ .idle) :
    edgeEffect s = advance s := by
  simp [edgeEffect, hr, accepts, cmdReady, h]

/-- An edge with `rst = 0` while a READ is in progress is the serial reader's (R69 to R73). -/
theorem step_busy {s : State} (hr : (portNow s).rst = false) (h : s.fsm ≠ .idle) :
    step s = .next (tick (advance s)) := by
  rw [step_eq, edgeEffect_busy hr h]

/-- Everything the next edge can do. -/
theorem step_cases {s t : State} (h : step s = .next t) :
    ((portNow s).rst = true ∧ t = tick (resetRegisters s)) ∨
    ((portNow s).rst = false ∧ (portNow s).cmdValid = true ∧ s.fsm = .idle ∧
      ∃ i, decode (portNow s).cmd = .ok i ∧ t = tick (acceptEffect i s)) ∨
    ((portNow s).rst = false ∧ (portNow s).cmdValid = true ∧ s.fsm = .idle ∧
      ∃ e, decode (portNow s).cmd = .error e ∧ t = tick (respond 0x00000000#32 true s)) ∨
    ((portNow s).rst = false ∧ accepts s = false ∧ t = tick (advance s)) := by
  rw [step_eq] at h
  injection h with h
  subst h
  cases hr : (portNow s).rst
  · cases ha : accepts s
    · simp [edgeEffect, hr, ha]
    · obtain ⟨-, hv, hi⟩ := (accepts_iff s).mp ha
      cases hd : decode (portNow s).cmd <;> simp [edgeEffect, hr, ha, hv, hi, hd]
  · simp [edgeEffect, hr]

/-- An edge's effect is on the registers, not on the inputs to come. -/
theorem edgeEffect_inputs (s : State) : (edgeEffect s).inputs = s.inputs := by
  have ha (i : Instr) : (acceptEffect i s).inputs = s.inputs := by cases i <;> rfl
  unfold edgeEffect
  split
  · rfl
  · split
    · split
      · exact ha _
      · rfl
    · exact advance_inputs s

/-- No edges at all. -/
@[simp] theorem runEdges_zero (s : State) : runEdges 0 s = .next s := rfl

/-- One edge, and then the others. -/
theorem runEdges_succ (n : Nat) (s : State) : runEdges (n + 1) s = runEdges n (tick (edgeEffect s)) := by
  have h : Sys2Proof.core.step s = .next (tick (edgeEffect s)) := step_eq s
  simp only [runEdges, Host.Core.run, h]
  rfl

/-- A run answers a next state, whatever its length (R66, R90). -/
theorem runEdges_next (n : Nat) (s : State) : ∃ t, runEdges n s = .next t := by
  induction n generalizing s with
  | zero => exact ⟨s, rfl⟩
  | succ n ih => rw [runEdges_succ]; exact ih _

/-- A run of `m + n` edges is a run of `m` and then one of `n`. -/
theorem runEdges_add {m : Nat} {s t : State} (h : runEdges m s = .next t) (n : Nat) :
    runEdges (m + n) s = runEdges n t := by
  induction m generalizing s with
  | zero => simp at h; subst h; simp
  | succ m ih =>
    rw [runEdges_succ] at h
    rw [Nat.add_right_comm, runEdges_succ]
    exact ih h

/-- An edge uses up one input and gives none, so a run of `n` edges leaves the inputs from the n-th on. -/
theorem portAt_runEdges {n : Nat} {s t : State} (h : runEdges n s = .next t) (k : Nat) :
    portAt t k = portAt s (n + k) := by
  induction n generalizing s with
  | zero => simp at h; subst h; simp
  | succ n ih =>
    rw [runEdges_succ] at h
    rw [ih h, portAt_tick, portAt_congr (edgeEffect_inputs s)]
    congr 1; omega

end Sys2Proof.Machine
end

