-- ==== Sys2Proof/Laws/Run.lean ====
section
/-! SUPPORT. Laws/Run.lean: clock periods that only pass, and each phase of a READ run from its first edge to its last,
told by the transaction level's operations (40_select_and_read.md R70 to R74). -/

namespace Sys2Proof.Machine

section Pass

variable (n : Nat) (s : State)

@[simp] theorem pass_cfg : (pass n s).cfg = s.cfg := rfl
@[simp] theorem pass_edgeNo : (pass n s).edgeNo = s.edgeNo + n := rfl
@[simp] theorem pass_trace : (pass n s).trace = s.trace := rfl
@[simp] theorem pass_tReg : (pass n s).tReg = s.tReg := rfl
@[simp] theorem pass_csN : (pass n s).csN = s.csN := rfl
@[simp] theorem pass_sck : (pass n s).sck = s.sck := rfl
@[simp] theorem pass_frame : (pass n s).frame = s.frame := rfl
@[simp] theorem pass_acc : (pass n s).acc = s.acc := rfl
@[simp] theorem pass_fsm : (pass n s).fsm = s.fsm := rfl
@[simp] theorem pass_cnt : (pass n s).cnt = s.cnt := rfl
@[simp] theorem pass_bit : (pass n s).bit = s.bit := rfl
@[simp] theorem pass_rspValid : (pass n s).rspValid = s.rspValid := rfl
@[simp] theorem pass_rspErr : (pass n s).rspErr = s.rspErr := rfl
@[simp] theorem pass_rspData : (pass n s).rspData = s.rspData := rfl

/-- The inputs after `n` periods are the ones before, `n` edges sooner. -/
@[simp] theorem portAt_pass (k : Nat) : portAt (pass n s) k = portAt s (n + k) := by
  simp [portAt, pass, List.getD_eq_getElem?_getD]

/-- So are the levels of SO, draws included. -/
@[simp] theorem soAt_pass (k : Nat) : soAt (pass n s) k = soAt s (n + k) := by
  simp only [soAt, portAt_pass, pass_edgeNo, Nat.add_assoc]

/-- The end of an edge is one period when no register is looked at. -/
theorem pass_tick : pass n (tick s) = pass (n + 1) s := by
  simp [pass, tick, Nat.add_assoc, Nat.add_comm 1 n]

/-- One more period after `n`. -/
theorem tick_pass : tick (pass n s) = pass (n + 1) s := by
  simp [pass, tick, Nat.add_assoc]

@[simp] theorem pass_zero : pass 0 s = s := rfl

end Pass

/-- The cycle level's own registers at the start of a phase, laid over a state of the transaction level: the phase, the
bit, CNT at 0 and no response. -/
def atPhase (p : Phase) (b : BitIndex) (s : State) : State :=
  { s with fsm := p, cnt := 0, bit := b, rspValid := false }

/-- While a phase counts, only CNT moves (R70 to R73). -/
theorem runEdges_count (p : Phase) (hp : p ≠ .idle) (m : Nat) (s : State) (hf : s.fsm = p)
    (hv : s.rspValid = false) (hr : ∀ k, k < m → (portAt s k).rst = false) (hc : s.cnt + m < phaseLength s.cfg p) :
    runEdges m s = .next { pass m s with cnt := s.cnt + m } := by
  induction m generalizing s with
  | zero => rfl
  | succ m ih =>
    have h0 : (portNow s).rst = false := hr 0 (by omega)
    have hstep : edgeEffect s = countOn s := by
      have hn : noResponse s = s := by simp [noResponse, ← hv]
      have hb : s.fsm ≠ .idle := hf ▸ hp
      rw [edgeEffect_busy h0 hb]
      cases p with
      | idle => exact absurd rfl hp
      | settle => rw [advance_settle_on hf (by simp only [phaseLength] at hc; omega), hn]
      | css => rw [advance_css_on hf (by simp only [phaseLength] at hc; omega), hn]
      | high => rw [advance_high_on hf (by simp only [phaseLength] at hc; omega), hn]
      | low => rw [advance_low_on hf (by simp only [phaseLength] at hc; omega), hn]
    rw [runEdges_succ, hstep, ih (tick (countOn s)) hf hv]
    · simp [countOn, pass, tick, Nat.add_assoc, Nat.add_comm 1 m]
    · intro k hk
      have := hr (k + 1) (by omega)
      simpa [countOn, portAt_congr (s := s)] using this
    · simp only [tick_cnt, tick_cfg, countOn]; omega

/-- A phase from the edge after the one that entered it to its own last edge, which the FSM's rule at full count
decides (R70 to R73). -/
theorem runEdges_phase (p : Phase) (hp : p ≠ .idle) (b : BitIndex) (s : State)
    (hr : ∀ k, 1 ≤ k → k ≤ phaseLength s.cfg p → (portAt s k).rst = false) (hl : 1 ≤ phaseLength s.cfg p) :
    runEdges (phaseLength s.cfg p) (tick (atPhase p b s)) =
      .next (tick (advance
        { atPhase p b (pass (phaseLength s.cfg p) s) with cnt := phaseLength s.cfg p - 1 })) := by
  obtain ⟨n, hn⟩ : ∃ n, phaseLength s.cfg p = n + 1 := ⟨phaseLength s.cfg p - 1, by omega⟩
  have hcount := runEdges_count p hp n (tick (atPhase p b s)) rfl rfl
    (by intro k hk
        have := hr (k + 1) (by omega) (by omega)
        simpa [atPhase, portAt_congr (s := s)] using this)
    (by show 0 + n < phaseLength s.cfg p; omega)
  rw [hn, runEdges_add hcount 1, runEdges_succ, runEdges_zero]
  have hs : { pass n (tick (atPhase p b s)) with cnt := (tick (atPhase p b s)).cnt + n } =
      { atPhase p b (pass (n + 1) s) with cnt := n } := by
    simp [atPhase, pass, tick, Nat.add_assoc, Nat.add_comm 1 n]
  rw [hs]
  have h0 : (portNow { atPhase p b (pass (n + 1) s) with cnt := n }).rst = false := by
    show (portAt (pass (n + 1) s) 0).rst = false
    rw [portAt_pass]
    exact hr (n + 1) (by omega) (by omega)
  rw [edgeEffect_busy h0 hp]
  rfl

variable (b : BitIndex) (s : State)

/-- SETTLE whole (R70): the wait of step 2 and the drive of step 3. -/
theorem runEdges_settle (hr : ∀ k, 1 ≤ k → k ≤ s.cfg.settleCycles → (portAt s k).rst = false)
    (hl : 1 ≤ s.cfg.settleCycles) :
    runEdges s.cfg.settleCycles (tick (atPhase .settle b s)) =
      .next (tick (atPhase .css b (drive (.csN false) (pass s.cfg.settleCycles s)))) := by
  have h := runEdges_phase .settle (by decide) b s hr hl
  rw [advance_settle_end rfl rfl] at h
  exact h

/-- CSS whole (R71): the wait after step 3 and the first rising edge of SCK. -/
theorem runEdges_css (hr : ∀ k, 1 ≤ k → k ≤ s.cfg.cssCycles → (portAt s k).rst = false)
    (hl : 1 ≤ s.cfg.cssCycles) :
    runEdges s.cfg.cssCycles (tick (atPhase .css b s)) =
      .next (tick (atPhase .high 31#5 (drive (.sck true) (pass s.cfg.cssCycles s)))) := by
  have h := runEdges_phase .css (by decide) b s hr hl
  rw [advance_css_end rfl rfl] at h
  exact h

/-- HIGH whole (R72): the wait, the sample and the falling edge of SCK. -/
theorem runEdges_high (hr : ∀ k, 1 ≤ k → k ≤ s.cfg.highCycles → (portAt s k).rst = false)
    (hl : 1 ≤ s.cfg.highCycles) :
    runEdges s.cfg.highCycles (tick (atPhase .high b s)) =
      .next (tick (atPhase .low b (drive (.sck false) (perform (pass s.cfg.highCycles s) (.sample b))))) := by
  have h := runEdges_phase .high (by decide) b s hr hl
  rw [advance_high_end rfl rfl] at h
  exact h

/-- LOW whole, above bit 0 (R73): the wait and the next rising edge of SCK. -/
theorem runEdges_low_next (hr : ∀ k, 1 ≤ k → k ≤ s.cfg.lowCycles → (portAt s k).rst = false)
    (hl : 1 ≤ s.cfg.lowCycles) (hb : b ≠ 0#5) :
    runEdges s.cfg.lowCycles (tick (atPhase .low b s)) =
      .next (tick (atPhase .high (b - 1#5) (drive (.sck true) (pass s.cfg.lowCycles s)))) := by
  have h := runEdges_phase .low (by decide) b s hr hl
  rw [advance_low_next rfl rfl hb] at h
  exact h

/-- LOW whole, at bit 0 (R73): the wait, and steps 5 and 6. -/
theorem runEdges_low_end (hr : ∀ k, 1 ≤ k → k ≤ s.cfg.lowCycles → (portAt s k).rst = false)
    (hl : 1 ≤ s.cfg.lowCycles) :
    runEdges s.cfg.lowCycles (tick (atPhase .low 0#5 s)) =
      .next (tick (completeRead (atPhase .low 0#5 (pass s.cfg.lowCycles s)))) := by
  have h := runEdges_phase .low (by decide) 0#5 s hr hl
  rw [advance_low_end rfl rfl rfl] at h
  exact h

end Sys2Proof.Machine
end

