-- ==== Sys2Proof/Machine/HostProgram.lean ====
section
/-! DEFINITION. Machine/HostProgram.lean: the text form of a host command sequence and what its host offers at each
edge (30_encoding.md R57, R58, 70_reset_and_hazards.md R112). It is notation for inputs, not hardware: `step` reads
none of it. -/

namespace Sys2Proof.Machine

/-- One line of a sequence, assembled. -/
inductive HostItem where
  /-- `RESET`: `rst` for one edge. -/
  | reset
  /-- `SO <frame>`: fixes the draws of the next READ. -/
  | so (frame : Word)
  /-- A command word to be accepted, reserved ones included. -/
  | offer (w : CommandWord)
deriving DecidableEq, Repr

/-- Why the assembler rejects a line (R57). -/
inductive AssemblerError where
  /-- No mnemonic or directive of R57 or R58. -/
  | unknownMnemonic
  /-- An operand on a mnemonic that takes none, or one too many. -/
  | unexpectedOperand
  /-- READ, `.cmd` or `SO` without its operand. -/
  | missingOperand
  /-- An operand that is no number of the right form. -/
  | badNumber
  /-- READ with a channel outside 0 to 7 (U1). -/
  | channelOutOfRange
  /-- A `.cmd` literal over 8 bits or an `SO` value over 32. -/
  | literalTooWide
deriving DecidableEq, Repr

/-- Splits at every `sep`, dropping empty pieces; `cur` holds the current piece reversed. -/
def splitGo (sep : Char) (cur : List Char) : List Char → List (List Char)
  | [] => if cur.isEmpty then [] else [cur.reverse]
  | c :: cs =>
    if c = sep then
      if cur.isEmpty then splitGo sep [] cs else cur.reverse :: splitGo sep [] cs
    else splitGo sep (c :: cur) cs

/-- The non-empty pieces of a text between separators. -/
def pieces (sep : Char) (cs : List Char) : List (List Char) := splitGo sep [] cs

/-- The digits in the order of their values. A base's digits are the first of them. -/
def digitOrder : List Char := "0123456789ABCDEF".toList

/-- The value of a character as a digit of a base, a letter in either case (log 10). -/
def digitIn (base : Nat) (c : Char) : Option Nat := (digitOrder.take base).idxOf? c.toUpper

/-- The number some digits of a base are, the most significant first. There must be a digit; how many, and zeros in
front of the others, make no difference (log 10). -/
def numeral (base : Nat) (cs : List Char) : Option Nat :=
  match cs.mapM (digitIn base) with
  | some (d :: ds) => some (ds.foldl (fun n e => base * n + e) d)
  | some [] => none
  | none => none

/-- A decimal integer, with `-` before a negative one. DESIGN CHOICE (log 10): R57 gives no spelling, and the model
takes zeros in front (`007`) and `-0`, which is 0. -/
def decimalOf : List Char → Option Int
  | '-' :: cs => (numeral 10 cs).map (fun n => -(n : Int))
  | cs => (numeral 10 cs).map (fun n => (n : Int))

/-- A hex literal `0x...` (R9). DESIGN CHOICE (log 10): it may have fewer digits than its width, and more where those in
front are zeros (`0x0041`); its value is what is held to the width. -/
def hexOf : List Char → Option Nat
  | '0' :: 'x' :: cs => numeral 16 cs
  | _ => none

/-- `READ <c>` is encoded as `0x20 | c` (R57). -/
def assembleRead (operand : List Char) : Except AssemblerError HostItem :=
  match decimalOf operand with
  | none => .error .badNumber
  | some n =>
    if channelInRange n then .ok (.offer (0x20#8 ||| BitVec.ofNat 8 n.toNat)) else .error .channelOutOfRange

/-- `.cmd 0xNN`: the literal word (R57). -/
def assembleLiteral (operand : List Char) : Except AssemblerError HostItem :=
  match hexOf operand with
  | none => .error .badNumber
  | some n => if n < 2 ^ 8 then .ok (.offer (BitVec.ofNat 8 n)) else .error .literalTooWide

/-- `SO <32-bit hex>` (R58). -/
def assembleSo (operand : List Char) : Except AssemblerError HostItem :=
  match hexOf operand with
  | none => .error .badNumber
  | some n => if n < 2 ^ 32 then .ok (.so (BitVec.ofNat 32 n)) else .error .literalTooWide

/-- The word or directive of a name that takes no operand. -/
def plainItem (name : List Char) : Option HostItem :=
  if name = "HOT".toList then some (.offer (encode .hot))
  else if name = "COLD".toList then some (.offer (encode .cold))
  else if name = "FAULTS".toList then some (.offer (encode .faults))
  else if name = "RAW".toList then some (.offer (encode .raw))
  else if name = "RESET".toList then some .reset
  else none

/-- The assembler of a name that takes one operand. -/
def operandAssembler (name : List Char) : Option (List Char → Except AssemblerError HostItem) :=
  if name = "READ".toList then some assembleRead
  else if name = ".cmd".toList then some assembleLiteral
  else if name = "SO".toList then some assembleSo
  else none

/-- One line: a name and its operands, separated by spaces, with `;` starting a comment (R57). A line with neither is
no item. -/
def assembleLine (line : List Char) : Except AssemblerError (Option HostItem) :=
  match pieces ' ' (line.takeWhile (fun c => c != ';')) with
  | [] => .ok none
  | name :: operands =>
    match plainItem name, operandAssembler name, operands with
    | some item, _, [] => .ok (some item)
    | some _, _, _ :: _ => .error .unexpectedOperand
    | none, some f, [x] => (f x).map some
    | none, some _, [] => .error .missingOperand
    | none, some _, _ :: _ :: _ => .error .unexpectedOperand
    | none, none, _ => .error .unknownMnemonic

/-- The items of a list of lines, or the first line's error. -/
def assembleLines : List (List Char) → Except AssemblerError (List HostItem)
  | [] => .ok []
  | line :: rest =>
    match assembleLine line with
    | .error e => .error e
    | .ok item => (assembleLines rest).map (fun items => item.toList ++ items)

/-- A whole text, one item a line (R57). -/
def assemble (text : String) : Except AssemblerError (List HostItem) := assembleLines (pieces '\n' text.toList)

/-! ## The host at each edge -/

/-- A line still to be carried out, with what the lines before it settled. -/
inductive HostLine where
  /-- Assert `rst` for one edge, after this many other edges. -/
  | reset (wait : Nat)
  /-- Offer a word; `frame` is the SO directive for it where it is a READ. -/
  | offer (w : CommandWord) (frame : Option Word)
deriving DecidableEq, Repr

/-- The word is a READ's (R51). -/
def startsRead (w : CommandWord) : Bool := selectsRow w (opcodeRow (.read 0))

/-- The lines of a sequence, each SO directive given to the next READ (R58). R57 gives a command its edge; no rule gives
a RESET line that follows a READ line one, in mid-READ or after the READ. DESIGN CHOICE (log 10): that edge is open, and
`delay` is how many edges the host lets go by first, counted from the one that accepts the command; one number stands
for a sequence. A RESET that follows no command asserts `rst` at once, and an SO directive outlives a RESET. `wait` and
`frame` are what the lines before leave. -/
def linesFrom (delay wait : Nat) (frame : Option Word) : List HostItem → List HostLine
  | [] => []
  | .so f :: rest => linesFrom delay wait (some f) rest
  | .reset :: rest => .reset wait :: linesFrom delay 0 frame rest
  | .offer w :: rest =>
    if startsRead w then .offer w frame :: linesFrom delay delay none rest
    else .offer w none :: linesFrom delay delay frame rest

/-- Where the host stands in a sequence. -/
structure HostPosition where
  /-- What it has still to do. -/
  lines : List HostLine
  /-- The SO directive of the READ it had accepted last. -/
  frame : Option Word
deriving DecidableEq, Repr

/-- The host before a sequence. -/
def HostPosition.start (delay : Nat) (items : List HostItem) : HostPosition :=
  { lines := linesFrom delay 0 none items, frame := none }

/-- SO at the next edge, nothing asserted: the i-th sample of a READ, which goes to frame bit `31 - i`, sees bit
`31 - i` of the directive (R58, R63). -/
def samplePorts (frame : Option Word) (s : State) : Ports :=
  { Ports.quiet with so := frame.map (fun f => f.getLsbD s.bit.toNat) }

/-- What the host puts on the input ports at the next edge, and where it stands after it. A command is offered at the
first edge with `cmd_ready = 1` (R57); a RESET does not look at `cmd_ready` (R58). -/
def hostEdge (h : HostPosition) (s : State) : Ports × HostPosition :=
  match h.lines with
  | [] => (samplePorts h.frame s, h)
  | .reset 0 :: rest => ({ samplePorts h.frame s with rst := true }, { h with lines := rest })
  | .reset (wait + 1) :: rest => (samplePorts h.frame s, { h with lines := .reset wait :: rest })
  | .offer w frame :: rest =>
    if cmdReady s then
      ({ Ports.quiet with cmdValid := true, cmd := w },
        { lines := rest, frame := if startsRead w then frame else h.frame })
    else (samplePorts h.frame s, h)

/-- The line is a command. -/
def HostLine.isOffer : HostLine → Bool
  | .reset _ => false
  | .offer _ _ => true

/-- The edge that led here is the end edge: no command is left to be accepted, the last one's response is there, and
FSM = IDLE (R112). -/
def atEnd (h : HostPosition) (s : State) : Bool :=
  !h.lines.any HostLine.isOffer && s.rspValid && s.fsm == .idle

/-- The end state within `n` edges: the registers just after the end edge, whatever lines are left then; none where the
host stops before that edge (R112). -/
def endWithin : Nat → HostPosition → State → Option State
  | 0, _, _ => none
  | n + 1, h, s =>
    match step { s with inputs := [(hostEdge h s).1] } with
    | .next t => if atEnd (hostEdge h s).2 t then some t else endWithin n (hostEdge h s).2 t
    | .fault _ => none
    | .refused _ => none

/-- The end state of a sequence from `s`, by a host that goes on for at most `n` edges. A sequence without a command
has no end, nor one whose last command is never accepted or is a READ that a RESET abandons (R112, R109). -/
def runProgram (delay n : Nat) (items : List HostItem) (s : State) : Option State :=
  if (HostPosition.start delay items).lines.any HostLine.isOffer then
    endWithin n (HostPosition.start delay items) s
  else none

end Sys2Proof.Machine
end

