-- ==== Sys2Proof/Tests/Slice0.lean ====
section
/-! SUPPORT. Tests/Slice0.lean: the model's own tests. Expected results are the spec's (95_test_vectors.md, named at each
test); then, for each statement with hypotheses, a state that meets them. -/

namespace Sys2Proof.Tests

open Sys2Proof Sys2Proof.Machine

/-! ## Well-formedness, decoding, configuration -/

/-- Each check refuses an ill-formed word (V-E): op 000, 110, 111; rsv set; an accessor's arg set. -/
theorem test_wellFormed_refuses :
    opAssigned 0x1F = false ∧ opAssigned 0xC0 = false ∧ opAssigned 0xFF = false ∧
    rsvClear 0x28 = false ∧ rsvClear 0x48 = false ∧ argAllowed 0x41 = false ∧ argAllowed 0x67 = false ∧
    wordWellFormed 0x38 = false ∧ wordWellFormed 0xA1 = false ∧ wordWellFormed 0x00 = false ∧
    channelInRange 8 = false ∧ channelInRange (-1) = false := by decide

/-- The words at the ends of the map pass. -/
theorem test_wellFormed_accepts :
    wordWellFormed 0x20 = true ∧ wordWellFormed 0x27 = true ∧ wordWellFormed 0xA0 = true ∧
    channelInRange 0 = true ∧ channelInRange 7 = true := by decide

/-- Words written out bit by bit from R47 and R51: op, rsv, arg. -/
theorem test_decode_words :
    decode 0b00100000#8 = .ok (.read 0b000#3) ∧ decode 0b00100111#8 = .ok (.read 0b111#3) ∧
    decode 0b01000000#8 = .ok .hot ∧ decode 0b01100000#8 = .ok .cold ∧
    decode 0b10000000#8 = .ok .faults ∧ decode 0b10100000#8 = .ok .raw := by decide

/-- Every reserved word of V-E is rejected by the name of its kind. -/
theorem test_decode_reserved :
    decode 0x00 = .error .unassignedOp ∧ decode 0x1F = .error .unassignedOp ∧
    decode 0x28 = .error .reservedBitsSet ∧ decode 0x38 = .error .reservedBitsSet ∧
    decode 0x41 = .error .argumentSet ∧ decode 0x48 = .error .reservedBitsSet ∧
    decode 0x67 = .error .argumentSet ∧ decode 0x81 = .error .argumentSet ∧ decode 0xA1 = .error .argumentSet ∧
    decode 0xB8 = .error .reservedBitsSet ∧ decode 0xC0 = .error .unassignedOp ∧
    decode 0xFF = .error .unassignedOp := by decide

/-- Exactly 12 of the 256 words are commands (R51, V-E), and the decoder and the word checks agree on which. -/
theorem test_decode_count :
    ((List.range 256).filter (fun n => (decodeTableWord 8 n).isSome)).length = 12 ∧
    (∀ w : CommandWord, (decodeTableWord 8 w.toNat).isSome = wordWellFormed w) := by decide

/-- The kind of error a configuration is refused with, or none. -/
def refusal (f s c h l : Nat) : Option ConfigError :=
  match Config.make { fClkHz := f, settleCycles := s, cssCycles := c, highCycles := h, lowCycles := l } with
  | .ok _ => none
  | .error e => some e

/-- V-T: the two configurations refused, and each bound of R5. -/
theorem test_config_refused :
    refusal 16 1 1 1 1 = some .settleTooShort ∧ refusal 1000000 124999 1 1 1 = some .settleTooShort ∧
    refusal 0 2 1 1 1 = some .clockZero ∧ refusal 16 0 1 1 1 = some .settleZero ∧
    refusal 16 2 0 1 1 = some .cssZero ∧ refusal 16 2 1 0 1 = some .highZero ∧
    refusal 16 2 1 1 0 = some .lowZero ∧ refusal 16 2 1 1 1 = none := by decide

/-- The configuration of V-R2. -/
def cfgB : Config :=
  { params := { fClkHz := 16, settleCycles := 2, cssCycles := 2, highCycles := 2, lowCycles := 3 } }

/-- V-T: `L_READ` of CFG-A, of V-R2 and of a 1 MHz clock. -/
theorem test_lRead :
    Config.cfgA.lRead = 67 ∧ cfgB.lRead = 164 ∧
    Config.lRead { params := ⟨1000000, 125000, 1, 1, 1⟩ } = 125065 := by decide

/-! ## One edge -/

/-- The state after reset of a CFG-A block. -/
def idleState : State := State.resetWith Config.cfgA

/-- `s` with one input, and nothing known after it. -/
def withInput (p : Ports) (s : State) : State := { s with inputs := [p] }

/-- The offer of a word. -/
def offering (w : CommandWord) (s : State) : State := withInput { rst := false, cmdValid := true, cmd := w, so := none } s

/-- A CFG-B block in the midst of a READ of channel 5, its pins those of the phase. -/
def busyState (p : Phase) (cnt : Nat) (bit : BitIndex) : State :=
  { State.resetWith cfgB with
    tReg := 5, csN := phaseCs p, sck := phaseSck p, fsm := p, cnt := cnt, bit := bit, acc := 0x01000000#32 }

/-- Something read off an outcome's next state. -/
def after {α : Type} (o : Host.Outcome State Fault Refusal) (f : State → α) : Option α :=
  match o with
  | .next t => some (f t)
  | .fault _ => none
  | .refused _ => none

/-- The response to a word offered in IDLE with this frame: RSP_VALID, RSP_DATA, RSP_ERR. -/
def answer (w : CommandWord) (f : Word) : Option (Bool × Word × Bool) :=
  responseOf (step (offering w { idleState with frame := f }))

/-- V-R1 at e0: READ 5 puts 101 on T, starts SETTLE, and gives no response. -/
theorem test_read_accepted :
    after (step (offering 0x25 idleState)) (fun t => (t.tReg, t.csN, t.sck, t.fsm, t.cnt, t.rspValid)) =
      some (0b101#3, true, false, .settle, 0, false) := by decide

/-- V-R1 at e0+20: the sample of bit 23 from SO = 1 adds it to ACC `0x01000000` and SCK falls; at bit 0 the READ
completes (R72, R73). -/
theorem test_read_sample_and_completion :
    after (step (withInput { Ports.quiet with so := some true } (busyState .high 1 23))) (fun t => (t.acc, t.sck, t.fsm)) =
      some (0x01800000#32, false, .low) ∧
    after (step (busyState .low 2 0)) (fun t => (t.frame, t.csN, t.fsm, t.rspValid, t.rspData, t.rspErr)) =
      some (0x01000000#32, true, .idle, true, 0x00000000#32, false) := by decide

/-- V-H: the ends of the field, the sign threshold, and V-H1, V-H2. -/
theorem test_hot :
    answer 0x40 0x7FFC0000 = some (true, 0x00001FFF#32, false) ∧
    answer 0x40 0x80000000 = some (true, 0xFFFFE000#32, false) ∧
    answer 0x40 0x0193FFFF = some (true, 0x00000064#32, false) ∧
    answer 0x40 0x01910194 = some (true, 0x00000064#32, false) := by decide

/-- V-C: the ends of the field, and V-C1, V-C2. -/
theorem test_cold :
    answer 0x60 0x00007FF0 = some (true, 0x000007FF#32, false) ∧
    answer 0x60 0x00008000 = some (true, 0xFFFFF800#32, false) ∧
    answer 0x60 0xFFFF019F = some (true, 0x00000019#32, false) ∧
    answer 0x60 0x0001FFF3 = some (true, 0xFFFFFFFF#32, false) := by decide

/-- V-F: every priority, and a clear summary. -/
theorem test_faults :
    answer 0x80 0x00000007 = some (true, 0#32, false) ∧ answer 0x80 0x00010000 = some (true, 0#32, false) ∧
    answer 0x80 0x00010001 = some (true, 3#32, false) ∧ answer 0x80 0x00010003 = some (true, 2#32, false) ∧
    answer 0x80 0x00010007 = some (true, 1#32, false) ∧ answer 0x80 0x0003000F = some (true, 1#32, false) := by decide

/-- V-W: RAW returns the reserved bits too. -/
theorem test_raw : answer 0xA0 0x00020008 = some (true, 0x00020008#32, false) := by decide

/-- V-E: a reserved word with rsv set starts no READ and leaves the frame (R52). -/
theorem test_reserved_word :
    answer 0x28 0x00000005 = some (true, 0x00000000#32, true) ∧
    after (step (offering 0x28 { idleState with frame := 5 })) (fun t => (t.tReg, t.fsm, t.frame)) =
      some (0b000#3, .idle, 5#32) := by decide

/-- V-R5: reset in mid-READ, whatever is offered. -/
theorem test_reset_in_read :
    after (step (withInput { rst := true, cmdValid := true, cmd := 0xA0, so := some true } (busyState .high 0 23)))
        (fun t => ((t.tReg, t.csN, t.sck), (t.frame, t.acc, t.fsm, t.rspValid))) =
      some ((0b000#3, true, false), (0x00000000#32, 0x00000000#32, .idle, false)) := by decide

/-- V-R6: RAW offered during a READ is not accepted and gets no response. -/
theorem test_offer_while_busy :
    after (step (offering 0xA0 (busyState .settle 0 0))) (fun t => (t.fsm, t.cnt, t.rspValid)) =
      some (.settle, 1, false) := by decide

/-- The step runs the word `withFetchWord` places, from reset and in mid-READ. -/
theorem test_withFetchWord :
    step (State.reset.withFetchWord 8 0x25) = exec (.read 5) (State.reset.withFetchWord 8 0x25) ∧
    step (State.reset.withFetchWord 8 0xA0) = exec .raw (State.reset.withFetchWord 8 0xA0) := ⟨rfl, rfl⟩

theorem test_withFetchWord_in_read :
    after (step ((busyState .high 0 9).withFetchWord 8 0x80)) (fun t => (t.rspValid, t.rspErr)) =
      some (true, false) := by decide

/-! ## The host's notation -/

/-- The assembler's checks of 95_test_vectors.md after V-E (R57). -/
theorem test_assembler_rejects :
    assemble "READ 8" = .error .channelOutOfRange ∧ assemble "READ -1" = .error .channelOutOfRange ∧
    assemble "HOT 0" = .error .unexpectedOperand ∧ assemble "READ" = .error .missingOperand ∧
    assemble "hot" = .error .unknownMnemonic ∧ assemble ".cmd 0x1FF" = .error .literalTooWide := by decide

/-- PR1's first words, a comment among them, and `.cmd`. -/
theorem test_assembler_words :
    assemble "RESET\nSO 0x01900190 ; S6\nREAD   5\nFAULTS\n.cmd 0x41" =
      .ok [.reset, .so 0x01900190#32, .offer 0x25#8, .offer 0x80#8, .offer 0x41#8] := by decide

/-- Number spellings (log 10), and digits that are none of their base. -/
theorem test_assembler_numbers :
    assemble "READ 007" = .ok [.offer 0x27#8] ∧ assemble ".cmd 0x0a0" = .ok [.offer 0xA0#8] ∧
    assemble "READ A" = .error .badNumber ∧ assemble ".cmd 0xG" = .error .badNumber ∧
    assemble "READ -" = .error .badNumber := by decide

/-- PR2 cut short: it ends at edge 2, and a RESET line behind the last command changes nothing of that (R112). -/
theorem test_program_end :
    (runProgram 0 9 [.reset, .offer 0xA0#8, .offer 0x41#8, .reset] (busyState .high 0 9)).map
        (fun t => (t.rspValid, t.rspErr, t.edgeNo)) = some (true, true, 4) := by decide

/-- No end: no command, a host that stops while the block is busy, a READ that a RESET abandons (R112). -/
theorem test_program_without_end :
    runProgram 0 3 [.reset] idleState = none ∧ runProgram 0 3 [.offer 0xA0#8] (busyState .settle 0 0) = none ∧
    runProgram 0 5 [.offer 0x25#8, .reset] idleState = none := by decide

/-- The host waits for `cmd_ready`, so a command offered from a busy start is answered at the edge after the READ
completes (R57, R112). -/
theorem test_program_from_busy :
    (runProgram 0 3 [.offer 0xA0#8] (busyState .low 1 0)).map (fun t => (t.rspData, t.edgeNo)) =
      some (0x01000000#32, 4) := by decide

/-- The first sample of a READ sees bit 31 of its SO directive, the second bit 30 (R58). -/
theorem test_so_directive :
    (samplePorts (some 0x80000000#32) (busyState .high 1 31)).so = some true ∧
    (samplePorts (some 0x80000000#32) (busyState .high 1 30)).so = some false ∧
    (HostPosition.start 0 [.so 0x80000000#32, .offer 0x40#8, .offer 0x20#8]).lines =
      [.offer 0x40#8 none, .offer 0x20#8 (some 0x80000000#32)] := by decide

/-! ## Witnesses: states that meet the statements' hypotheses -/

/-- R6's bound met exactly, and missed by one (ConfigurationsAreExactlyTheLegalOnes). -/
theorem witness_config_bound :
    (Params.problem ⟨16, 2, 1, 1, 1⟩ = none ∧ 16 ≤ 8 * 2) ∧ (Params.problem ⟨17, 2, 1, 1, 1⟩ ≠ none ∧ ¬ 17 ≤ 8 * 2) := by
  decide

/-- OpcodeMapSelectsCommands, ReservedWordsGiveOnlyTheErrorResponse: a word that selects no row, by each kind. -/
theorem witness_no_row : ∀ w ∈ [0x1F#8, 0xC0#8, 0x28#8, 0x41#8], ∀ i, selectsRow w (opcodeRow i) = false := by
  intro w hw i
  cases i with
  | read c => revert w; simp only [opcodeRow]; decide
  | hot => revert w; decide
  | cold => revert w; decide
  | faults => revert w; decide
  | raw => revert w; decide

/-- OpcodeMapSelectsCommands, DecodeAndEncodeAgree: words at both ends of the READ row. -/
theorem witness_read_row :
    selectsRow 0x20#8 (opcodeRow (.read 0)) = true ∧ selectsRow 0x27#8 (opcodeRow (.read 7)) = true ∧
    decode 0x27#8 = .ok (.read 7) ∧ encode (.read 7) = 0x27#8 := by decide

/-- ResetEdgeGivesResetValues, ResetAbandonsReadWithoutResponse, ResetReachesTheInvariantFromAnyRegisters: a reset edge
in mid-READ, with nothing offered after it. -/
theorem witness_reset_edge :
    (portNow (withInput { Ports.quiet with rst := true } (busyState .high 0 23))).rst = true ∧
    (∀ k, 1 ≤ k → k ≤ 5 → (portAt (withInput { Ports.quiet with rst := true } (busyState .high 0 23)) k).cmdValid = false) ∧
    (∀ e ∈ (withInput { Ports.quiet with rst := true } (busyState .high 0 23)).trace,
      e.edgeNo < (withInput { Ports.quiet with rst := true } (busyState .high 0 23)).edgeNo) := by
  refine ⟨rfl, fun k h1 h2 => ?_, by decide⟩
  have : k = 1 ∨ k = 2 ∨ k = 3 ∨ k = 4 ∨ k = 5 := by omega
  rcases this with h | h | h | h | h <;> subst h <;> rfl

/-- StepRunsTheAcceptedCommand and the handshake's accepting clause. -/
theorem witness_accepting :
    (portNow (offering 0x27 idleState)).rst = false ∧ (portNow (offering 0x27 idleState)).cmdValid = true ∧
    (offering 0x27 idleState).fsm = .idle ∧ decode (portNow (offering 0x27 idleState)).cmd = .ok (.read 7) ∧
    (Instr.read 7).wellFormed = true ∧ accepts (offering 0x27 idleState) = true := by decide

/-- HandshakeAcceptsExactlyWhenReady, its other clauses: nothing offered, busy, in reset. CommandOfferedWhileBusyIsTurnedAway:
busy. -/
theorem witness_not_accepting :
    ((portNow idleState).rst = false ∧ (portNow idleState).cmdValid = false) ∧
    (cmdReady (busyState .low 2 0) = false ∧ (portNow (busyState .low 2 0)).rst = false ∧
      (busyState .low 2 0).fsm ≠ .idle) ∧
    (portNow (withInput { Ports.quiet with rst := true } idleState)).rst = true := by decide

/-- ReservedWordsGiveOnlyTheErrorResponse, ResponsesFollowTheHandshake: a reserved word accepted; a READ completing; an
edge with neither. -/
theorem witness_responses :
    (accepts (offering 0x41 idleState) = true ∧ (portNow (offering 0x41 idleState)).cmd = 0x41#8) ∧
    (accepts (busyState .low 2 0) = false ∧ completesRead (busyState .low 2 0) = true) ∧
    (accepts (busyState .low 1 0) = false ∧ completesRead (busyState .low 1 0) = false) := by decide

/-- The accessors' statements: IDLE with a frame whose fields are all at an end of their range, and one frame that
differs from it in no bit HOT reads, one in none COLD reads, one in bits 17 and 3 only. -/
theorem witness_accessors :
    ({ idleState with frame := 0x80018007#32 } : State).fsm = .idle ∧ isAccessor .hot = true ∧ isAccessor .raw = true ∧
    (∀ i, i < 32 → 18 ≤ i → (0x80000000#32).getLsbD i = (0x80018007#32).getLsbD i) ∧
    (∀ i, i < 32 → 4 ≤ i → i < 16 → (0x00008000#32).getLsbD i = (0x80018007#32).getLsbD i) ∧
    (∀ i, i < 32 → i ≠ 17 → i ≠ 3 → (0x8003800F#32).getLsbD i = (0x80018007#32).getLsbD i) ∧
    idleState.frame = 0x00000000#32 := by decide

/-- InversionAlgorithmIsTheSignedValue: the field value at the source's threshold (R78). -/
theorem witness_inversion : 0 < 14 ∧ invertAndNegate 14 0x2000 = -8192 ∧ invertAndNegate 14 0x1FFF = 8191 := by decide

/-- HotCodeCoversItsWholeRange, ColdCodeCoversItsWholeRange: the ends of both ranges. -/
theorem witness_ranges :
    hotCode 0x80000000#32 = -8192 ∧ hotCode 0x7FFC0000#32 = 8191 ∧ coldCode 0x00008000#32 = -2048 ∧
    coldCode 0x00007FF0#32 = 2047 := by decide

/-- IdleEdgeStartsReadOrKeepsTheReader, MuxRegisterChangesOnlyAtAcceptanceAndReset: READ accepted; HOT, a reserved word
and nothing accepted. -/
theorem witness_idle_edge :
    AcceptsRead 7 (offering 0x27 idleState) ∧ (∀ c, ¬ AcceptsRead c (offering 0x40 idleState)) ∧
    (∀ c, ¬ AcceptsRead c (offering 0x28 idleState)) ∧ (∀ c, ¬ AcceptsRead c idleState) := by
  unfold AcceptsRead
  decide

/-- The phases' statements: each phase before its last period and in it, and LOW's last period at bit 0 and above. -/
theorem witness_phases :
    (portNow (busyState .settle 1 0)).rst = false ∧
    (busyState .settle 1 0).cnt = (busyState .settle 1 0).cfg.settleCycles - 1 ∧
    (busyState .settle 0 0).cnt ≠ (busyState .settle 0 0).cfg.settleCycles - 1 ∧
    (busyState .css 1 0).cnt = (busyState .css 1 0).cfg.cssCycles - 1 ∧
    (busyState .css 0 0).cnt ≠ (busyState .css 0 0).cfg.cssCycles - 1 ∧
    (busyState .high 1 31).cnt = (busyState .high 1 31).cfg.highCycles - 1 ∧
    (busyState .high 0 31).cnt ≠ (busyState .high 0 31).cfg.highCycles - 1 ∧
    (busyState .low 2 0).cnt = (busyState .low 2 0).cfg.lowCycles - 1 ∧ (busyState .low 2 0).bit = 0#5 ∧
    (busyState .low 2 1).cnt = (busyState .low 2 1).cfg.lowCycles - 1 ∧ (busyState .low 2 1).bit ≠ 0#5 ∧
    (busyState .low 1 0).cnt ≠ (busyState .low 1 0).cfg.lowCycles - 1 := by decide

/-- A block in the last high phase of a READ: bit 0 alone is unsampled. -/
def lastHigh : State :=
  { idleState with
    tReg := 5, csN := false, sck := true, fsm := .high, acc := 0x01900190#32, edgeNo := 9
    trace := [⟨8, .sck true⟩, ⟨4, .csN false⟩, ⟨1, .t 5⟩] }

/-- EveryStepKeepsTheInvariant: a legal state in mid-READ, whose next edge samples bit 0. -/
theorem witness_invariant_in_read : Inv lastHigh where
  cs := rfl
  sck := rfl
  cnt := by decide
  bit := fun h => absurd rfl h
  unsampled := by
    have : ∀ i, i < 1 → (0x01900190#32).getLsbD i = false := by decide
    exact this
  published := by decide
  silent := fun _ => rfl
  error := by decide
  trace := ⟨rfl, rfl, rfl, by decide⟩

/-- ChipSelectStaysHighBetweenReads, EveryStepKeepsTheInvariant: a legal state between reads, and as many edges as the
settle interval. -/
theorem witness_invariant_idle : Inv idleState ∧ idleState.fsm = .idle ∧ 2 ≤ idleState.cfg.settleCycles where
  left :=
    { cs := rfl
      sck := rfl
      cnt := by decide
      bit := fun _ _ => rfl
      unsampled := fun i h => absurd h (Nat.not_lt_zero i)
      published := fun _ => rfl
      silent := fun h => absurd rfl h
      error := by decide
      trace := ⟨rfl, rfl, rfl, by decide⟩ }
  right := by decide

/-- The input at edge e0 + k of a READ of channel 5 accepted at e0 by a CFG-A block, from a converter that presents S6's
frame; HOT and COLD follow it at the two edges after its completion. -/
def readInput (k : Nat) : Ports :=
  { rst := false
    cmdValid := k = 0 ∨ k = 68 ∨ k = 69
    cmd := if k = 0 then 0x25#8 else if k = 68 then 0x40#8 else 0x60#8
    so := some (presentedBit 0x01900190#32 ((k - 4) / 2)) }

/-- A CFG-A block before that READ. -/
def readOffered : State := { idleState with inputs := (List.range 70).map readInput }

/-- The statements about READ as a whole: the READ runs, under ENV. -/
theorem witness_read : RunsRead 5 readOffered ∧ EnvPresents 0x01900190#32 readOffered := by
  have hr : ∀ k, k < 68 → (portAt readOffered k).rst = false := by decide
  refine ⟨⟨⟨rfl, rfl⟩, fun k _ h => hr k ?_⟩, ?_⟩
  · have : readOffered.cfg.lRead = 67 := rfl
    omega
  · unfold EnvPresents
    decide

/-- AccessorAfterReadSeesItsFrame: COLD offered after that READ, and after HOT. -/
theorem witness_accessor_after_read :
    ∃ t u, RunsRead 5 readOffered ∧ isAccessor .cold = true ∧
      runEdges (readOffered.cfg.lRead + 1) readOffered = .next t ∧ NoReadFor 1 t ∧ runEdges 1 t = .next u ∧
      (portNow u).rst = false ∧ (portNow u).cmdValid = true ∧ (portNow u).cmd = encode .cold := by
  obtain ⟨t, ht⟩ := runEdges_next (readOffered.cfg.lRead + 1) readOffered
  obtain ⟨u, hu⟩ := runEdges_next 1 t
  have h68 : portNow t = readInput 68 := (portAt_runEdges ht 0).trans rfl
  have h69 : portNow u = readInput 69 := (portAt_runEdges hu 0).trans ((portAt_runEdges ht 1).trans rfl)
  refine ⟨t, u, witness_read.1, rfl, ht, fun k x hk hx => ?_, hu, ?_, ?_, ?_⟩
  · obtain rfl : k = 0 := by omega
    rw [runEdges_zero] at hx
    injection hx with hx
    subst hx
    refine ⟨by rw [h68]; rfl, fun c hc => ?_⟩
    rw [AcceptsRead, h68] at hc
    exact absurd hc.2 (by clear hc; revert c; decide)
  all_goals rw [h69]; rfl

/-- The inputs at the edges after HOT is accepted: quiet, then a reserved word, then COLD. -/
def stretchInputs : List Ports :=
  [Ports.quiet, { Ports.quiet with cmdValid := true, cmd := 0x41 }, { Ports.quiet with cmdValid := true, cmd := 0x60 }]

/-- AccessorsAreIdempotent: HOT accepted, and three edges without a READ before it comes again; and no edge at all
between. -/
theorem witness_stretch :
    ∃ t u, isAccessor .hot = true ∧ idleState.fsm = .idle ∧
      exec .hot { idleState with inputs := Ports.quiet :: stretchInputs } = .next t ∧
      (NoReadFor 3 t ∧ runEdges 3 t = .next u) ∧ (NoReadFor 0 t ∧ runEdges 0 t = .next t) := by
  refine ⟨_, _, rfl, rfl, rfl, ⟨fun k x hk hx => ?_, rfl⟩, fun k _ hk _ => absurd hk (Nat.not_lt_zero k), rfl⟩
  unfold AcceptsRead portNow
  rw [portAt_runEdges hx 0]
  obtain rfl | rfl | rfl : k = 0 ∨ k = 1 ∨ k = 2 := by omega
  all_goals exact ⟨rfl, fun c hc => absurd hc.2 (by clear hc; revert c; decide)⟩

end Sys2Proof.Tests
end

section
/-! Configurations (00_scope.md R5, R6): what `Params.problem` and `Config.make` answer, and the obligation about them. -/

namespace Sys2Proof

/-- R5 and R6 as inequalities. -/
theorem Params.problem_eq_none_iff (p : Params) :
    p.problem = none ↔ 1 ≤ p.fClkHz ∧ 1 ≤ p.settleCycles ∧ p.fClkHz ≤ 8 * p.settleCycles ∧ 1 ≤ p.cssCycles ∧
      1 ≤ p.highCycles ∧ 1 ≤ p.lowCycles := by
  unfold Params.problem
  constructor
  · intro h
    split_ifs at h
    omega
  · rintro ⟨hclock, hsettle, hshort, hcss, hhigh, hlow⟩
    rw [if_neg (by omega), if_neg (by omega), if_neg (by omega), if_neg (by omega), if_neg (by omega),
      if_neg (by omega)]

/-- Parameters without a problem build the configuration that holds them. -/
theorem Config.make_of_problem_eq_none {p : Params} (h : p.problem = none) : Config.make p = .ok ⟨p, h⟩ := by
  unfold Config.make
  split
  · rfl
  next e he => cases h.symm.trans he

/-- Parameters with a problem are refused by its name (R6, R114). -/
theorem Config.make_of_problem_eq_some {p : Params} {e : ConfigError} (h : p.problem = some e) :
    Config.make p = .error e := by
  unfold Config.make
  split
  next hn => cases h.symm.trans hn
  next e' he => cases h.symm.trans he; rfl

/-- Settles O1: `Config.make` answers by `Params.problem`, which is none exactly under R5 and R6, and every
configuration carries the proof that it is none. -/
theorem configurationsAreExactlyTheLegalOnes : Obligations.ConfigurationsAreExactlyTheLegalOnes := by
  unfold Obligations.ConfigurationsAreExactlyTheLegalOnes
  intro p
  refine ⟨fun hp => ?_, fun hp => ?_, fun c => c.params.problem_eq_none_iff.1 c.legal⟩
  · exact ⟨_, Config.make_of_problem_eq_none (p.problem_eq_none_iff.2 hp), rfl⟩
  · rw [← p.problem_eq_none_iff] at hp
    obtain ⟨e, he⟩ := Option.ne_none_iff_exists'.1 hp
    exact ⟨e, Config.make_of_problem_eq_some he⟩

end Sys2Proof
end

section
/-! The registers at reset, FRAME and the invariant (10_state.md R17, R20, R27, R28, R30): what one edge does to each,
and the obligations about them. -/

namespace Sys2Proof.Machine

/-! ## The values after reset -/

/-- Settles O5: each register of `State.resetWith` is R30's, whatever the build. -/
theorem resetStateHoldsTheListedValues : Obligations.ResetStateHoldsTheListedValues := by
  unfold Obligations.ResetStateHoldsTheListedValues
  exact ⟨fun c => ⟨rfl, rfl, rfl, rfl, rfl, rfl, rfl, rfl, rfl, rfl, rfl, (cmdReady_iff _).2 rfl⟩, rfl⟩

/-! ## FRAME -/

section Frame

variable {s : State}

/-- When an edge with `rst = 0` completes a READ (R73). -/
theorem completesRead_iff :
    completesRead s = true ↔ s.fsm = .low ∧ s.cnt = s.cfg.lowCycles - 1 ∧ s.bit = 0#5 := by
  simp [completesRead, and_assoc]

/-- No READ completes in IDLE. -/
theorem completesRead_idle (h : s.fsm = .idle) : completesRead s = false := by simp [completesRead, h]

/-- No command changes FRAME at the edge that accepts it (R20, R69, R76). -/
@[simp] theorem acceptEffect_frame (i : Instr) : (acceptEffect i s).frame = s.frame := by cases i <;> rfl

/-- What the serial reader does to FRAME: it takes ACC at the completing edge and is kept at every other (R20, R73). -/
theorem advance_frame : (advance s).frame = if completesRead s then s.acc else s.frame := by
  by_cases hdone : completesRead s = true
  · obtain ⟨hf, hc, hb⟩ := completesRead_iff.1 hdone
    rw [if_pos hdone, advance_low_end hf hc hb]
    rfl
  · rw [if_neg hdone]
    rcases advance_cases s with ⟨-, h⟩ | ⟨-, h, -⟩ | ⟨-, -, h⟩ | ⟨-, -, h⟩ | ⟨-, -, h⟩ | ⟨-, -, -, h⟩ | ⟨hf, hc, hb, -⟩
    case inr.inr.inr.inr.inr.inr => exact absurd (completesRead_iff.2 ⟨hf, hc, hb⟩) hdone
    all_goals
      rw [h]
      rfl

/-- Settles O33: a reset edge clears FRAME, an accepted word leaves it and is offered in IDLE, where no READ completes,
and every other edge is the serial reader's. -/
theorem frameChangesOnlyAtCompletionAndReset : Obligations.FrameChangesOnlyAtCompletionAndReset := by
  unfold Obligations.FrameChangesOnlyAtCompletionAndReset
  intro s t h
  rcases step_cases h with ⟨hr, rfl⟩ | ⟨hr, -, hf, i, -, rfl⟩ | ⟨hr, -, hf, e, -, rfl⟩ | ⟨hr, -, rfl⟩
  · simp [hr, resetRegisters_eq, State.resetWith]
  · simp [hr, completesRead_idle hf]
  · simp [hr, completesRead_idle hf]
  · simp [hr, advance_frame]

end Frame

/-! ## The trace tells the pins -/

section Trace

variable {s t : State}

/-- The trace's clause speaks of the trace, the pin registers and the edge number alone, and of the last only from
below. -/
theorem TraceAgrees.congr (h : TraceAgrees s) (htrace : t.trace = s.trace) (ht : t.tReg = s.tReg)
    (hcs : t.csN = s.csN) (hsck : t.sck = s.sck) (hedge : s.edgeNo ≤ t.edgeNo) : TraceAgrees t where
  t := by rw [htrace, ht, h.t]
  csN := by rw [htrace, hcs, h.csN]
  sck := by rw [htrace, hsck, h.sck]
  past := by
    rw [htrace]
    exact fun e he => (h.past e he).trans_le hedge

/-- An event of this edge is past once the edge has ended. -/
theorem past_cons (h : ∀ e ∈ s.trace, e.edgeNo < s.edgeNo + 1) (d : PinDrive) :
    ∀ e ∈ (⟨s.edgeNo, d⟩ : Event) :: s.trace, e.edgeNo < s.edgeNo + 1 :=
  List.forall_mem_cons.2 ⟨Nat.lt_succ_self _, h⟩

/-- One `Drive` in an edge keeps pins and trace in step (R12). -/
theorem TraceAgrees.tick_drive (h : TraceAgrees s) (d : PinDrive) : TraceAgrees (tick (drive d s)) := by
  have hpast : ∀ e ∈ s.trace, e.edgeNo < s.edgeNo + 1 := fun e he => Nat.lt_succ_of_lt (h.past e he)
  cases d with
  | t v => exact ⟨rfl, h.csN, h.sck, past_cons hpast _⟩
  | csN v => exact ⟨h.t, rfl, h.sck, past_cons hpast _⟩
  | sck v => exact ⟨h.t, h.csN, rfl, past_cons hpast _⟩

/-- A reset edge drives every pin, so pins and trace are in step after it whatever they were before (R107, log 4). -/
theorem traceAgrees_tick_resetRegisters (hpast : ∀ e ∈ s.trace, e.edgeNo < s.edgeNo) :
    TraceAgrees (tick (resetRegisters s)) where
  t := rfl
  csN := rfl
  sck := rfl
  past := by
    have h0 : ∀ e ∈ s.trace, e.edgeNo < s.edgeNo + 1 := fun e he => Nat.lt_succ_of_lt (hpast e he)
    have h1 := past_cons (s := drive (.sck false) s) (past_cons h0 _) (.t 0b000#3)
    exact past_cons (s := drive (.t 0b000#3) (drive (.sck false) s)) h1 (.csN true)

end Trace

/-! ## The invariant -/

section Invariant

variable {s : State}

/-- Every phase has a period (R5). -/
theorem phaseLength_pos (cfg : Config) (p : Phase) : 0 < phaseLength cfg p := by
  obtain ⟨-, hsettle, -, hcss, hhigh, hlow⟩ := cfg.params.problem_eq_none_iff.1 cfg.legal
  cases p with
  | idle => exact Nat.one_pos
  | settle => exact hsettle
  | css => exact hcss
  | high => exact hhigh
  | low => exact hlow

/-- Before CS falls no bit is sampled. -/
theorem unsampledBits_settle (hf : s.fsm = .settle) : unsampledBits s = 32 := by simp [unsampledBits, hf]

/-- Nor is one before the first clock pulse. -/
theorem unsampledBits_css (hf : s.fsm = .css) : unsampledBits s = 32 := by simp [unsampledBits, hf]

/-- In HIGH, BIT and the bits below it are still to be sampled (R72). -/
theorem unsampledBits_high (hf : s.fsm = .high) : unsampledBits s = s.bit.toNat + 1 := by simp [unsampledBits, hf]

/-- In LOW, the bits below BIT are (R73). -/
theorem unsampledBits_low (hf : s.fsm = .low) : unsampledBits s = s.bit.toNat := by simp [unsampledBits, hf]

/-- A reset edge leads to the invariant from any registers, if no event of the trace is in the future (R107, R111). -/
theorem inv_tick_resetRegisters (hpast : ∀ e ∈ s.trace, e.edgeNo < s.edgeNo) : Inv (tick (resetRegisters s)) where
  cs := rfl
  sck := rfl
  cnt := Nat.one_pos
  bit _ _ := rfl
  unsampled _ hi := absurd hi (Nat.not_lt_zero _)
  published _ := rfl
  silent h := absurd rfl h
  error _ := rfl
  trace := traceAgrees_tick_resetRegisters hpast

/-- The end of an edge keeps the invariant. -/
theorem Inv.after_tick (h : Inv s) : Inv (tick s) where
  cs := h.cs
  sck := h.sck
  cnt := h.cnt
  bit := h.bit
  unsampled := h.unsampled
  published := h.published
  silent := h.silent
  error := h.error
  trace := h.trace.congr rfl rfl rfl rfl (Nat.le_succ _)

/-- The fall of RSP_VALID keeps the invariant. -/
theorem Inv.after_noResponse (h : Inv s) : Inv (noResponse s) where
  cs := h.cs
  sck := h.sck
  cnt := h.cnt
  bit := h.bit
  unsampled := h.unsampled
  published := h.published
  silent _ := rfl
  error := h.error
  trace := h.trace.congr rfl rfl rfl rfl le_rfl

/-- A response in IDLE keeps the invariant, if it carries no data where it reports an error (R52, R55). -/
theorem Inv.after_respond (h : Inv s) (hf : s.fsm = .idle) {w : Word} {e : Bool} (he : e = true → w = 0x00000000#32) :
    Inv (respond w e s) where
  cs := h.cs
  sck := h.sck
  cnt := h.cnt
  bit := h.bit
  unsampled := h.unsampled
  published := h.published
  silent hn := absurd hf hn
  error := he
  trace := h.trace.congr rfl rfl rfl rfl le_rfl

/-- One more period that still fits the phase keeps the invariant. -/
theorem Inv.after_countOn (h : Inv s) (hc : s.cnt + 1 < phaseLength s.cfg s.fsm) : Inv (countOn s) where
  cs := h.cs
  sck := h.sck
  cnt := hc
  bit := h.bit
  unsampled := h.unsampled
  published := h.published
  silent := h.silent
  error := h.error
  trace := h.trace.congr rfl rfl rfl rfl le_rfl

/-- The edge that enters a phase of a READ by one `Drive` leads to the invariant, if the pins are then the phase's and
BIT and ACC fit it (R69 to R73). -/
theorem Inv.tick_enterPhase (h : Inv s) {d : PinDrive} {p : Phase} {b : BitIndex} {w : Word} (hp : p ≠ .idle)
    (hcs : (drive d s).csN = phaseCs p) (hsck : (drive d s).sck = phaseSck p)
    (hbit : p ≠ .high → p ≠ .low → b = 0#5)
    (hacc : ∀ i, i < unsampledBits { s with fsm := p, bit := b } → w.getLsbD i = false) :
    Inv (tick { noResponse (drive d s) with acc := w, bit := b, cnt := 0, fsm := p }) where
  cs := hcs
  sck := hsck
  cnt := phaseLength_pos _ p
  bit := hbit
  unsampled := hacc
  published hi := absurd hi hp
  silent _ := rfl
  error := by simpa using h.error
  trace := (h.trace.tick_drive d).congr rfl rfl rfl rfl le_rfl

/-- The edge that accepts READ keeps the invariant: SETTLE starts with ACC cleared (R69). -/
theorem Inv.tick_startRead (h : Inv s) (hf : s.fsm = .idle) (c : Channel) : Inv (tick (startRead c s)) :=
  h.tick_enterPhase (d := .t c) (p := .settle) (b := s.bit) (w := 0x00000000#32) (by decide)
    (by rw [drive_t_csN, h.cs, hf]; rfl)
    (by rw [drive_t_sck, h.sck, hf]; rfl)
    (fun _ _ => h.bit (by simp [hf]) (by simp [hf]))
    (fun _ _ => BitVec.getLsbD_zero)

/-- The edge that ends SETTLE keeps the invariant: CS falls and nothing is sampled yet (R70). -/
theorem Inv.tick_enterCss (h : Inv s) (hf : s.fsm = .settle) :
    Inv (tick { drive (.csN false) (noResponse s) with cnt := 0, fsm := .css }) :=
  h.tick_enterPhase (d := .csN false) (p := .css) (b := s.bit) (w := s.acc) (by decide)
    rfl
    (by rw [drive_csN_sck, h.sck, hf]; rfl)
    (fun _ _ => h.bit (by simp [hf]) (by simp [hf]))
    (fun i hi => h.unsampled i (by rw [unsampledBits_settle hf]; exact hi))

/-- The edge that raises SCK for bit `b` keeps the invariant, if that bit and those below it are still to be sampled
(R71, R73). -/
theorem Inv.tick_enterHigh (h : Inv s) (hf : s.fsm = .css ∨ s.fsm = .low) {b : BitIndex}
    (hb : b.toNat + 1 ≤ unsampledBits s) :
    Inv (tick { drive (.sck true) (noResponse s) with bit := b, cnt := 0, fsm := .high }) :=
  h.tick_enterPhase (d := .sck true) (p := .high) (b := b) (w := s.acc) (by decide)
    (by rw [drive_sck_csN, h.cs]; rcases hf with hf | hf <;> rw [hf] <;> rfl)
    rfl
    (fun hn => absurd rfl hn)
    (fun i hi => h.unsampled i (Nat.lt_of_lt_of_le hi hb))

/-- The edge that ends HIGH keeps the invariant: it writes bit BIT of ACC and leaves the bits below it (R72). -/
theorem Inv.tick_enterLow (h : Inv s) (hf : s.fsm = .high) (v : Bool) :
    Inv (tick { drive (.sck false) (noResponse s) with acc := writeBit s.acc s.bit v, cnt := 0, fsm := .low }) :=
  h.tick_enterPhase (d := .sck false) (p := .low) (b := s.bit) (w := writeBit s.acc s.bit v) (by decide)
    (by rw [drive_sck_csN, h.cs, hf]; rfl)
    rfl
    (fun _ hn => absurd rfl hn)
    (fun i hi => by
      have hi : i < s.bit.toNat := hi
      rw [writeBit_getLsbD, if_neg hi.ne]
      exact h.unsampled i (by rw [unsampledBits_high hf]; omega))

/-- The edge that completes a READ keeps the invariant: FRAME takes ACC and CS rises (R73). -/
theorem Inv.tick_completeRead (h : Inv s) (hf : s.fsm = .low) (hb : s.bit = 0#5) : Inv (tick (completeRead s)) where
  cs := rfl
  sck := h.sck.trans (by rw [hf]; rfl)
  cnt := Nat.one_pos
  bit _ _ := hb
  unsampled _ hi := absurd hi (Nat.not_lt_zero _)
  published _ := rfl
  silent hn := absurd rfl hn
  error _ := rfl
  trace := (h.trace.tick_drive (.csN true)).congr rfl rfl rfl rfl le_rfl

/-- An edge that accepts a command keeps the invariant (R69, R76). -/
theorem Inv.tick_acceptEffect (h : Inv s) (hf : s.fsm = .idle) (i : Instr) : Inv (tick (acceptEffect i s)) := by
  have answer (w : Word) : Inv (tick (respond w false s)) :=
    (h.after_respond hf fun he => absurd he Bool.false_ne_true).after_tick
  cases i with
  | read c => exact h.tick_startRead hf c
  | hot => exact answer _
  | cold => exact answer _
  | faults => exact answer _
  | raw => exact answer _

/-- A phase that does not end at this edge has room for one more period (R70 to R73). -/
theorem Inv.cnt_succ_lt (h : Inv s) (hc : s.cnt ≠ phaseLength s.cfg s.fsm - 1) :
    s.cnt + 1 < phaseLength s.cfg s.fsm := by
  have := h.cnt
  omega

/-- An edge of the serial reader keeps the invariant, whichever way its phase goes (R69 to R73). -/
theorem Inv.tick_advance (h : Inv s) : Inv (tick (advance s)) := by
  rcases advance_cases s with ⟨-, ha⟩ | ⟨-, ha, hc⟩ | ⟨hf, -, ha⟩ | ⟨hf, -, ha⟩ | ⟨hf, -, ha⟩ | ⟨hf, -, hb, ha⟩ |
    ⟨hf, -, hb, ha⟩ <;> rw [ha]
  · exact h.after_noResponse.after_tick
  · have hlen : s.cnt ≠ phaseLength s.cfg s.fsm - 1 := by
      rcases hc with ⟨hf, hc⟩ | ⟨hf, hc⟩ | ⟨hf, hc⟩ | ⟨hf, hc⟩ <;> rw [hf] <;> exact hc
    exact (h.after_noResponse.after_countOn (h.cnt_succ_lt hlen)).after_tick
  · exact h.tick_enterCss hf
  · exact h.tick_enterHigh (.inl hf) (by rw [unsampledBits_css hf]; decide)
  · exact h.tick_enterLow hf _
  · exact h.tick_enterHigh (.inr hf) (by rw [unsampledBits_low hf]; bv_omega)
  · exact h.after_noResponse.tick_completeRead hf hb

/-- Settles O37: each way an edge can go keeps every clause. -/
theorem everyStepKeepsTheInvariant : Obligations.EveryStepKeepsTheInvariant := by
  unfold Obligations.EveryStepKeepsTheInvariant
  intro s t h hstep
  rcases step_cases hstep with ⟨-, rfl⟩ | ⟨-, -, hf, i, -, rfl⟩ | ⟨-, -, hf, e, -, rfl⟩ | ⟨-, -, rfl⟩
  · exact inv_tick_resetRegisters h.trace.past
  · exact h.tick_acceptEffect hf i
  · exact (h.after_respond hf fun _ => rfl).after_tick
  · exact h.tick_advance

/-- The state after reset is what a reset edge of number 0 leaves, with no event before it (log 4, log 5). -/
theorem resetWith_eq_tick_resetRegisters (cfg : Config) :
    State.resetWith cfg = tick (resetRegisters { State.resetWith cfg with edgeNo := 0, trace := [] }) := rfl

/-- The invariant holds after reset of every build (R30). -/
theorem inv_resetWith (cfg : Config) : Inv (State.resetWith cfg) := by
  rw [resetWith_eq_tick_resetRegisters]
  exact inv_tick_resetRegisters (by simp)

/-- Settles O35: the state after reset is a reset edge's, which leads to the invariant. -/
theorem invariantHoldsAfterReset : Obligations.InvariantHoldsAfterReset := by
  unfold Obligations.InvariantHoldsAfterReset
  exact ⟨inv_resetWith, inv_resetWith Config.build⟩

end Invariant

end Sys2Proof.Machine
end

section
/-! The words of commands (30_encoding.md R47, R51): decoding loses no operand bit and undoes encoding. -/

namespace Sys2Proof

/-- A word is its three fields put together (R47). -/
theorem eq_append_fields (w : CommandWord) : w = opField w ++ (rsvField w ++ argField w) := by
  revert w
  decide

/-- A word whose rsv field is zero is a command word of its op and its arg (R47). -/
theorem eq_commandWord {w : CommandWord} (hr : rsvField w = 0b00#2) : w = commandWord (opField w) (argField w) := by
  conv_lhs => rw [eq_append_fields w, hr]
  rfl

/-- An accessor decoded has rsv and arg zero (R47). -/
theorem decodeAccessor_eq_ok {i j : Instr} {w : CommandWord} (h : decodeAccessor i w = .ok j) :
    j = i ∧ w = commandWord (opField w) 0b000#3 := by
  unfold decodeAccessor at h
  split_ifs at h with hr ha
  injection h with h
  exact ⟨h.symm, ha ▸ eq_commandWord hr⟩

/-- A READ decoded has rsv zero and its channel in arg (R47, R49). -/
theorem decodeRead_eq_ok {j : Instr} {w : CommandWord} (h : decodeRead w = .ok j) :
    j = .read (argField w) ∧ w = commandWord (opField w) (argField w) := by
  unfold decodeRead at h
  split_ifs at h with hr
  injection h with h
  exact ⟨h.symm, eq_commandWord hr⟩

/-- A word that decodes to a command is that command's word (R47, R49). -/
theorem eq_encode_of_decode {w : CommandWord} {i : Instr} (h : decode w = .ok i) : w = encode i := by
  unfold decode at h
  split_ifs at h with hread hhot hcold hfaults hraw
  · obtain ⟨rfl, hw⟩ := decodeRead_eq_ok h
    rwa [hread] at hw
  · obtain ⟨rfl, hw⟩ := decodeAccessor_eq_ok h
    rwa [hhot] at hw
  · obtain ⟨rfl, hw⟩ := decodeAccessor_eq_ok h
    rwa [hcold] at hw
  · obtain ⟨rfl, hw⟩ := decodeAccessor_eq_ok h
    rwa [hfaults] at hw
  · obtain ⟨rfl, hw⟩ := decodeAccessor_eq_ok h
    rwa [hraw] at hw

/-- A command's word decodes to it (R51). -/
theorem decode_encode (i : Instr) : decode (encode i) = .ok i := by
  cases i with
  | read c => revert c; decide
  | hot => rfl
  | cold => rfl
  | faults => rfl
  | raw => rfl

end Sys2Proof
end

section
/-! Edges that accept no READ (20_memory.md R38, 41_frame_decode.md R76): they leave every register but the response's
alone, and an accessor's answer is a function of FRAME. -/

namespace Sys2Proof.Machine

variable {s t u : State}

/-- No register differs from itself. -/
theorem SameButResponse.refl (s : State) : SameButResponse s s :=
  ⟨rfl, rfl, rfl, rfl, rfl, rfl, rfl, rfl, rfl, rfl⟩

/-- What two stretches each leave alone, they leave alone together. -/
theorem SameButResponse.trans (h : SameButResponse s t) (h' : SameButResponse t u) : SameButResponse s u where
  cfg := h'.cfg.trans h.cfg
  trace := h'.trace.trans h.trace
  tReg := h'.tReg.trans h.tReg
  csN := h'.csN.trans h.csN
  sck := h'.sck.trans h.sck
  frame := h'.frame.trans h.frame
  acc := h'.acc.trans h.acc
  fsm := h'.fsm.trans h.fsm
  cnt := h'.cnt.trans h.cnt
  bit := h'.bit.trans h.bit

/-- An edge that only responds leaves the other registers alone (R55). -/
theorem sameButResponse_tick_respond (w : Word) (e : Bool) (s : State) : SameButResponse s (tick (respond w e s)) :=
  ⟨rfl, rfl, rfl, rfl, rfl, rfl, rfl, rfl, rfl, rfl⟩

/-- So does an edge that only ends a response. -/
theorem sameButResponse_tick_noResponse (s : State) : SameButResponse s (tick (noResponse s)) :=
  ⟨rfl, rfl, rfl, rfl, rfl, rfl, rfl, rfl, rfl, rfl⟩

/-- All an accessor does is to respond, with a word that FRAME alone decides (R76, R86 to R89). -/
theorem acceptEffect_accessor {i : Instr} (hi : isAccessor i = true) :
    ∃ answer : Word → Word, ∀ s, acceptEffect i s = respond (answer s.frame) false s := by
  cases i with
  | read c => exact absurd hi Bool.false_ne_true
  | hot => exact ⟨hotWord, fun _ => rfl⟩
  | cold => exact ⟨coldWord, fun _ => rfl⟩
  | faults => exact ⟨faultsWord, fun _ => rfl⟩
  | raw => exact ⟨id, fun _ => rfl⟩

/-- A command that is no accessor is a READ. -/
theorem isAccessor_eq_false_iff {i : Instr} : isAccessor i = false ↔ ∃ c, i = .read c := by
  cases i <;> simp [isAccessor]

/-- An edge in IDLE that neither resets nor accepts a READ leaves every register but the response's alone (R69, R76). -/
theorem sameButResponse_step (hf : s.fsm = .idle) (hr : (portNow s).rst = false) (hn : ∀ c, ¬ AcceptsRead c s)
    (h : step s = .next t) : SameButResponse s t := by
  rcases step_cases h with ⟨hr', -⟩ | ⟨-, hv, -, i, hd, rfl⟩ | ⟨-, -, -, e, -, rfl⟩ | ⟨-, -, rfl⟩
  · exact absurd (hr.symm.trans hr') Bool.false_ne_true
  · cases hi : isAccessor i with
    | true =>
      obtain ⟨answer, ha⟩ := acceptEffect_accessor hi
      exact ha s ▸ sameButResponse_tick_respond _ _ s
    | false =>
      obtain ⟨c, rfl⟩ := isAccessor_eq_false_iff.1 hi
      exact absurd ⟨(accepts_iff s).2 ⟨hr, hv, hf⟩, eq_encode_of_decode hd⟩ (hn c)
  · exact sameButResponse_tick_respond _ _ s
  · exact advance_idle hf ▸ sameButResponse_tick_noResponse s

/-- The first edge of a stretch without a READ, and the rest of it. -/
theorem noReadFor_succ {n : Nat} (h : NoReadFor (n + 1) s) :
    (portNow s).rst = false ∧ (∀ c, ¬ AcceptsRead c s) ∧ NoReadFor n (tick (edgeEffect s)) := by
  obtain ⟨hr, hn⟩ := h 0 s n.succ_pos rfl
  exact ⟨hr, hn, fun k t hk ht => h (k + 1) t (by omega) ((runEdges_succ k s).trans ht)⟩

/-- A stretch of any length from IDLE without a reset or a READ leaves every register but the response's alone (R38). -/
theorem sameButResponse_runEdges {n : Nat} (hf : s.fsm = .idle) (hn : NoReadFor n s)
    (h : runEdges n s = .next t) : SameButResponse s t := by
  induction n generalizing s with
  | zero =>
    rw [runEdges_zero] at h
    injection h with h
    exact h ▸ .refl s
  | succ n ih =>
    obtain ⟨hr, hread, hrest⟩ := noReadFor_succ hn
    have hfirst := sameButResponse_step hf hr hread (step_eq s)
    rw [runEdges_succ] at h
    exact hfirst.trans (ih (hfirst.fsm.trans hf) hrest h)

/-- Settles O25: the stretch between the two accessors leaves FRAME and the FSM alone, and FRAME decides the answer. -/
theorem accessorsAreIdempotent : Obligations.AccessorsAreIdempotent := by
  unfold Obligations.AccessorsAreIdempotent
  intro i s t u n hi hf hexec hn hrun
  obtain ⟨answer, ha⟩ := acceptEffect_accessor hi
  rw [exec_idle i hf, ha] at hexec
  injection hexec with ht
  have hst : SameButResponse s t := ht ▸ sameButResponse_tick_respond _ _ s
  have hsu : SameButResponse s u := hst.trans (sameButResponse_runEdges (hst.fsm.trans hf) hn hrun)
  refine ⟨_, exec_idle i (hsu.fsm.trans hf), ?_⟩
  rw [ha, hsu.frame, ← ht]
  exact ⟨rfl, rfl, rfl, hsu.trans (sameButResponse_tick_respond _ _ u)⟩

end Sys2Proof.Machine
end

section
/-! READ as a whole (40_select_and_read.md R62, R74): the cycle level run from the accepting edge to the completing one,
phase by phase, is the transaction level's fold. -/

namespace Sys2Proof.Machine

variable {s t : State} {m n : Nat}

/-! ## Stretches without a reset -/

/-- The first edges of a stretch without a reset. -/
theorem NoResetFor.take (h : NoResetFor (m + n) s) : NoResetFor m s := fun k h1 hk => h k h1 (by omega)

/-- The edges of a stretch without a reset, once `m` of them are gone. -/
theorem NoResetFor.drop (h : NoResetFor (m + n) s) (ht : t.inputs = s.inputs.drop m) : NoResetFor n t := by
  intro k h1 hk
  have hport : portAt t k = portAt s (m + k) := (portAt_congr (s := pass m s) ht k).trans (portAt_pass m s k)
  rw [hport]
  exact h _ (by omega) (by omega)

/-! ## The actions of the transaction level -/

/-- No line of the pseudocode changes the FSM. -/
@[simp] theorem perform_fsm (s : State) (a : Action) : (perform s a).fsm = s.fsm := by
  cases a with
  | drive d => exact drive_fsm d s
  | clearAcc => rfl
  | wait n => rfl
  | sample i => rfl
  | publish => rfl
  | respond w e => rfl

/-- So the pseudocode as a whole does not. -/
@[simp] theorem foldl_perform_fsm (l : List Action) (s : State) : (l.foldl perform s).fsm = s.fsm := by
  induction l generalizing s with
  | nil => rfl
  | cons a l ih => rw [List.foldl_cons, ih, perform_fsm]

/-- The frame bits below `n`, the highest first. -/
def bitsBelow (n : Nat) : List BitIndex := (List.range n).reverse.map (BitVec.ofNat 5)

/-- The highest of them, and the others. -/
theorem bitsBelow_succ (n : Nat) : bitsBelow (n + 1) = BitVec.ofNat 5 n :: bitsBelow n := by
  simp [bitsBelow, List.range_succ]

/-- READ clocks out the bits below 32 (R33, R62). -/
theorem msbFirst_eq_bitsBelow : msbFirst = bitsBelow 32 := by decide

/-- The state at the edge that accepts READ c: channel selected, ACC clear (step 1 of R62). -/
def channelSelected (c : Channel) (s : State) : State := { drive (.t c) s with acc := 0x00000000#32 }

/-- The state at the edge where CS falls in READ c: the settle interval is over (R62). -/
def csLowered (cfg : Config) (c : Channel) (s : State) : State :=
  drive (.csN false) (pass cfg.settleCycles (channelSelected c s))

/-- The state at the edge where SCK rises first in READ c. -/
def clockReady (cfg : Config) (c : Channel) (s : State) : State := pass cfg.cssCycles (csLowered cfg c s)

/-- The state at the edge where SCK falls in bit `b`, from the one where it rises (step 4 of R62). -/
def bitSampled (cfg : Config) (b : BitIndex) (s : State) : State :=
  drive (.sck false) (perform (pass cfg.highCycles (drive (.sck true) s)) (.sample b))

/-- The state once the bits of `l` are clocked out (step 4 of R62). -/
def clockBits (cfg : Config) (l : List BitIndex) (s : State) : State := (l.flatMap (bitActions cfg)).foldl perform s

/-- A bit is a high period, the sample and a low period, and then come the other bits. -/
theorem clockBits_cons (cfg : Config) (b : BitIndex) (l : List BitIndex) (s : State) :
    clockBits cfg (b :: l) s = clockBits cfg l (pass cfg.lowCycles (bitSampled cfg b s)) := by
  rw [clockBits, List.flatMap_cons, List.foldl_append]
  rfl

/-- Clocking bits out does not change the FSM of the transaction level's state. -/
@[simp] theorem clockBits_fsm (cfg : Config) (l : List BitIndex) (s : State) : (clockBits cfg l s).fsm = s.fsm :=
  foldl_perform_fsm _ s

/-- Steps 5 and 6 of R62 are what the completing edge does (R73). -/
theorem completeRead_atPhase (hf : s.fsm = .idle) :
    completeRead (atPhase .low 0#5 s) =
      { [Action.drive (.csN true), .publish, .respond 0x00000000#32 false].foldl perform s with
        cnt := 0, bit := 0#5 } := by
  cases s
  cases hf
  rfl

/-- The pseudocode of R62 cut where the first clock pulse begins and where the last ends. -/
theorem transactRead_eq (hf : s.fsm = .idle) (c : Channel) :
    transactRead c s =
      tick (completeRead (atPhase .low 0#5 (clockBits s.cfg (bitsBelow 32) (clockReady s.cfg c s)))) := by
  have hidle : (clockBits s.cfg (bitsBelow 32) (clockReady s.cfg c s)).fsm = .idle := (clockBits_fsm ..).trans hf
  rw [completeRead_atPhase hidle, transactRead, readActions, List.foldl_append, List.foldl_append,
    msbFirst_eq_bitsBelow]
  rfl

/-! ## The cycle level -/

/-- The edge that accepts READ c starts the settle interval (R69). -/
theorem edgeEffect_read {c : Channel} (h : AcceptsRead c s) :
    edgeEffect s = atPhase .settle s.bit (channelSelected c s) := by
  obtain ⟨ha, hw⟩ := h
  obtain ⟨hr, -, -⟩ := (accepts_iff s).1 ha
  simp only [edgeEffect, hr, ha, hw, decode_encode, if_true, Bool.false_eq_true, if_false]
  rfl

/-- HIGH from the rising edge of SCK to the falling one (R72). -/
theorem runEdges_bitSampled (b : BitIndex) (hr : NoResetFor s.cfg.highCycles s) :
    runEdges s.cfg.highCycles (tick (atPhase .high b (drive (.sck true) s))) =
      .next (tick (atPhase .low b (bitSampled s.cfg b s))) :=
  runEdges_high b (drive (.sck true) s) hr (phaseLength_pos s.cfg .high)

/-- A bit above bit 0, from its rising edge of SCK to the next bit's (R72, R73). -/
theorem runEdges_bit {b : BitIndex} (hb : b ≠ 0#5) (hr : NoResetFor (s.cfg.highCycles + s.cfg.lowCycles) s) :
    runEdges (s.cfg.highCycles + s.cfg.lowCycles) (tick (atPhase .high b (drive (.sck true) s))) =
      .next (tick (atPhase .high (b - 1#5) (drive (.sck true) (pass s.cfg.lowCycles (bitSampled s.cfg b s))))) := by
  rw [runEdges_add (runEdges_bitSampled b hr.take)]
  exact runEdges_low_next b (bitSampled s.cfg b s) (hr.drop rfl) (phaseLength_pos s.cfg .low) hb

/-- Bit 0, from its rising edge of SCK to the edge that completes the READ (R72, R73). -/
theorem runEdges_last_bit (hr : NoResetFor (s.cfg.highCycles + s.cfg.lowCycles) s) :
    runEdges (s.cfg.highCycles + s.cfg.lowCycles) (tick (atPhase .high 0#5 (drive (.sck true) s))) =
      .next (tick (completeRead (atPhase .low 0#5 (pass s.cfg.lowCycles (bitSampled s.cfg 0#5 s))))) := by
  rw [runEdges_add (runEdges_bitSampled 0#5 hr.take)]
  exact runEdges_low_end (bitSampled s.cfg 0#5 s) (hr.drop rfl) (phaseLength_pos s.cfg .low)

/-- Bit `n` and all below it, from its rising edge of SCK to the edge that completes the READ (R72, R73). -/
theorem runEdges_bits {cfg : Config} (hcfg : s.cfg = cfg) (hn : n < 32)
    (hr : NoResetFor ((n + 1) * (cfg.highCycles + cfg.lowCycles)) s) :
    runEdges ((n + 1) * (cfg.highCycles + cfg.lowCycles))
        (tick (atPhase .high (BitVec.ofNat 5 n) (drive (.sck true) s))) =
      .next (tick (completeRead (atPhase .low 0#5 (clockBits cfg (bitsBelow (n + 1)) s)))) := by
  induction n generalizing s with
  | zero =>
    subst hcfg
    rw [Nat.zero_add, Nat.one_mul] at hr ⊢
    exact runEdges_last_bit hr
  | succ n ih =>
    subst hcfg
    rw [Nat.succ_mul, Nat.add_comm (_ * _)] at hr ⊢
    have hb : BitVec.ofNat 5 (n + 1) ≠ 0#5 := by bv_omega
    have hpred : BitVec.ofNat 5 (n + 1) - 1#5 = BitVec.ofNat 5 n := by bv_omega
    rw [runEdges_add (runEdges_bit hb hr.take), hpred, bitsBelow_succ, clockBits_cons]
    exact ih rfl (by omega) (hr.drop (List.drop_drop ..))

/-- SETTLE, up to the edge where CS falls (R70). -/
theorem runEdges_csLowered (b : BitIndex) (c : Channel) (hr : NoResetFor s.cfg.settleCycles s) :
    runEdges s.cfg.settleCycles (tick (atPhase .settle b (channelSelected c s))) =
      .next (tick (atPhase .css b (csLowered s.cfg c s))) :=
  runEdges_settle b (channelSelected c s) hr (phaseLength_pos s.cfg .settle)

/-- CSS, up to the first rising edge of SCK (R71). -/
theorem runEdges_clockReady (b : BitIndex) (c : Channel)
    (hr : NoResetFor s.cfg.cssCycles (csLowered s.cfg c s)) :
    runEdges s.cfg.cssCycles (tick (atPhase .css b (csLowered s.cfg c s))) =
      .next (tick (atPhase .high 31#5 (drive (.sck true) (clockReady s.cfg c s)))) :=
  runEdges_css b (csLowered s.cfg c s) hr (phaseLength_pos s.cfg .css)

/-- A READ run to its completing edge is the transaction (R74). -/
theorem runEdges_read {c : Channel} (h : RunsRead c s) :
    runEdges (s.cfg.lRead + 1) s = .next (transactRead c s) := by
  obtain ⟨haccept, hr⟩ := h
  obtain ⟨-, -, hf⟩ := (accepts_iff s).1 haccept.1
  unfold Config.lRead at hr ⊢
  have hsettle := runEdges_csLowered s.bit c hr.take.take
  have hcss := runEdges_clockReady s.bit c (hr.take.drop rfl)
  have hbits := runEdges_bits (s := clockReady s.cfg c s) rfl (n := 31) (by decide) (hr.drop (List.drop_drop ..))
  rw [transactRead_eq hf, runEdges_succ, edgeEffect_read haccept, runEdges_add ((runEdges_add hsettle _).trans hcss)]
  exact hbits

end Sys2Proof.Machine
end

section
/-! The frame a READ captures (20_memory.md R33, 40_select_and_read.md R63): bit `i` is sample number `31 - i`. -/

namespace Sys2Proof.Machine

/-- What one bit of the frame does to ACC: its bit takes the level of SO after the high period (R72). -/
theorem bitSampled_acc (cfg : Config) (b : BitIndex) (s : State) :
    (bitSampled cfg b s).acc = writeBit s.acc b (soAt s cfg.highCycles) := by
  have hsample : sampleSo (pass cfg.highCycles (drive (.sck true) s)) = soAt s cfg.highCycles :=
    soAt_pass cfg.highCycles (drive (.sck true) s) 0
  rw [← hsample]
  rfl

/-- The falling edge of SCK comes a high period after the rising one. -/
theorem soAt_bitSampled (cfg : Config) (b : BitIndex) (s : State) (k : Nat) :
    soAt (bitSampled cfg b s) k = soAt s (cfg.highCycles + k) :=
  soAt_pass cfg.highCycles s k

/-- ACC once the bits below `n` are clocked out: bit `i` of them was sampled at the end of high period `n - 1 - i`. -/
theorem clockBits_bitsBelow_acc (cfg : Config) {n : Nat} (hn : n ≤ 32) (s : State) (i : Nat) :
    (clockBits cfg (bitsBelow n) s).acc.getLsbD i =
      if i < n then soAt s ((n - 1 - i) * (cfg.highCycles + cfg.lowCycles) + cfg.highCycles)
      else s.acc.getLsbD i := by
  induction n generalizing s with
  | zero => rfl
  | succ n ih =>
    have hbit : (BitVec.ofNat 5 n).toNat = n := Nat.mod_eq_of_lt hn
    rw [bitsBelow_succ, clockBits_cons, ih (by omega), pass_acc, bitSampled_acc, soAt_pass, soAt_bitSampled,
      writeBit_getLsbD, hbit]
    rcases Nat.lt_trichotomy i n with hlt | rfl | hgt
    · have hperiods : n + 1 - 1 - i = (n - 1 - i) + 1 := by omega
      rw [if_pos hlt, if_pos (by omega), hperiods, Nat.succ_mul]
      congr 1
      omega
    · simp
    · rw [if_neg (by omega), if_neg (by omega), if_neg (by omega)]

/-- The first rising edge of SCK comes the two waits after the accepting edge. -/
theorem soAt_clockReady (cfg : Config) (c : Channel) (s : State) (k : Nat) :
    soAt (clockReady cfg c s) k = soAt s (cfg.settleCycles + cfg.cssCycles + k) := by
  have hsettle (j : Nat) : soAt (csLowered cfg c s) j = soAt s (cfg.settleCycles + j) := soAt_pass cfg.settleCycles s j
  rw [clockReady, soAt_pass, hsettle, Nat.add_assoc]

/-- Each bit of the frame a READ publishes is its own sample (R33, R67). -/
theorem transactRead_frame_getLsbD {s : State} (hf : s.fsm = .idle) (c : Channel) {i : Nat} (hi : i < 32) :
    (transactRead c s).frame.getLsbD i = soAt s (sampleOffset s.cfg (31 - i)) := by
  have hframe : (transactRead c s).frame = (clockBits s.cfg (bitsBelow 32) (clockReady s.cfg c s)).acc := by
    rw [transactRead_eq hf]
    rfl
  rw [hframe, clockBits_bitsBelow_acc s.cfg le_rfl, if_pos hi, soAt_clockReady, sampleOffset, riseOffset,
    Nat.add_assoc _ _ s.cfg.highCycles]

/-- The lowest `n` bits of a number, each by its weight, make the number modulo `2 ^ n`. -/
theorem sum_testBit_two_pow (x n : Nat) :
    ((List.range n).map fun i => if x.testBit i then 2 ^ i else 0).sum = x % 2 ^ n := by
  induction n with
  | zero => simp [Nat.mod_one]
  | succ n ih =>
    have hbit : (if x.testBit n then 2 ^ n else 0) = 2 ^ n * (x / 2 ^ n % 2) := by
      rw [Nat.testBit_eq_decide_div_mod_eq]
      rcases Nat.mod_two_eq_zero_or_one (x / 2 ^ n) with h | h <;> simp [h]
    rw [List.range_succ, List.map_append, List.sum_append, ih, List.map_singleton, List.sum_singleton, hbit,
      Nat.pow_succ, Nat.mod_mul]

/-- A word is the sum of its bits, each by its weight. -/
theorem sampledSum_getLsbD (w : Word) : sampledSum w.getLsbD = w.toNat :=
  (sum_testBit_two_pow w.toNat 32).trans (Nat.mod_eq_of_lt w.isLt)

/-- The sum looks at the 32 bit positions only. -/
theorem sampledSum_congr {b b' : Nat → Bool} (h : ∀ i, i < 32 → b i = b' i) : sampledSum b = sampledSum b' := by
  unfold sampledSum
  congr 1
  exact List.map_congr_left fun i hi => by rw [h i (List.mem_range.1 hi)]

/-- Settles O40: the run ends where the transaction does, whose frame holds sample `31 - i` in bit `i`. -/
theorem readCapturesSamplesMsbFirst : Obligations.ReadCapturesSamplesMsbFirst := by
  unfold Obligations.ReadCapturesSamplesMsbFirst
  intro s c h
  obtain ⟨-, -, hf⟩ := (accepts_iff s).1 h.1.1
  refine ⟨transactRead c s, runEdges_read h, ?_⟩
  rw [← sampledSum_getLsbD]
  exact sampledSum_congr fun i hi => transactRead_frame_getLsbD hf c hi

end Sys2Proof.Machine
end

section
/-! The opcode map (30_encoding.md R47, R51, R52): which words select a row, which are reserved, and the obligations
about decoding. -/

namespace Sys2Proof

/-! ## Commands and their words -/

/-- Settles O3: a word that decodes is the command's word, and the command's word decodes to it. -/
theorem decodeAndEncodeAgree : Obligations.DecodeAndEncodeAgree := by
  unfold Obligations.DecodeAndEncodeAgree
  intro w i
  exact ⟨eq_encode_of_decode, fun h => h ▸ decode_encode i⟩

/-- Settles O4: five of the words are encodings, and each of the others breaks R47 in the way its name says. -/
theorem wordsOfTheEncodingTableDecode : Obligations.WordsOfTheEncodingTableDecode := by
  unfold Obligations.WordsOfTheEncodingTableDecode
  exact ⟨decode_encode (.read 5#3), decode_encode .hot, decode_encode .cold, decode_encode .faults,
    decode_encode .raw, rfl, rfl, rfl⟩

/-! ## Rows of the opcode map -/

/-- A command's word selects the command's own row (R51). -/
theorem selectsRow_encode (i : Instr) : selectsRow (encode i) (opcodeRow i) = true := by
  have h : Laws.Encoding.Statement i := by
    cases i with
    | read c => exact Laws.Encoding.read c
    | hot => exact Laws.Encoding.hot
    | cold => exact Laws.Encoding.cold
    | faults => exact Laws.Encoding.faults
    | raw => exact Laws.Encoding.raw
  exact h.2.2

/-- A row whose mask keeps every bit is selected by its value alone. -/
theorem eq_of_selectsRow_full {w v : CommandWord} (h : selectsRow w ⟨v, 0xFF⟩ = true) : w = v := by
  have hmask : w &&& 0xFF#8 = w := BitVec.and_allOnes
  simpa [selectsRow, hmask] using h

/-- The READ row is selected by READ's words alone, each with its channel in arg (R49). -/
theorem eq_encode_of_selectsRow_read : ∀ {w : CommandWord} {c : Channel},
    selectsRow w (opcodeRow (.read c)) = true → w = encode (.read (argField w)) := by
  simp only [opcodeRow]
  decide

/-- A word that selects a row is the word of a command of that row (R51). -/
theorem exists_encode_of_selectsRow {w : CommandWord} {i : Instr} (h : selectsRow w (opcodeRow i) = true) :
    ∃ j, w = encode j ∧ opcodeRow j = opcodeRow i := by
  cases i with
  | read c => exact ⟨.read (argField w), eq_encode_of_selectsRow_read h, rfl⟩
  | hot => exact ⟨.hot, eq_of_selectsRow_full h, rfl⟩
  | cold => exact ⟨.cold, eq_of_selectsRow_full h, rfl⟩
  | faults => exact ⟨.faults, eq_of_selectsRow_full h, rfl⟩
  | raw => exact ⟨.raw, eq_of_selectsRow_full h, rfl⟩

/-- Selecting a row is decoding to a command of that row (R51). -/
theorem selectsRow_iff_decode {w : CommandWord} {i : Instr} :
    selectsRow w (opcodeRow i) = true ↔ ∃ j, decode w = .ok j ∧ opcodeRow j = opcodeRow i := by
  constructor
  · intro h
    obtain ⟨j, rfl, hrow⟩ := exists_encode_of_selectsRow h
    exact ⟨j, decode_encode j, hrow⟩
  · rintro ⟨j, hd, hrow⟩
    rw [← hrow, eq_encode_of_decode hd]
    exact selectsRow_encode j

/-- The reserved words are those that select no row (R51, R52). -/
theorem selectsNoRow_iff_decode_error {w : CommandWord} :
    (∀ i, selectsRow w (opcodeRow i) = false) ↔ ∃ e, decode w = .error e := by
  cases hd : decode w with
  | ok i =>
    have hrow : selectsRow w (opcodeRow i) = true := selectsRow_iff_decode.2 ⟨i, hd, rfl⟩
    exact ⟨fun h => absurd (hrow.symm.trans (h i)) (by decide), fun ⟨e, he⟩ => nomatch he⟩
  | error e =>
    refine ⟨fun _ => ⟨e, rfl⟩, fun _ i => ?_⟩
    rw [Bool.eq_false_iff, Ne, selectsRow_iff_decode]
    rintro ⟨j, hj, -⟩
    cases hd.symm.trans hj

/-- Settles O2: selecting a row is decoding to a command of that row, and a word decodes to one command at most. -/
theorem opcodeMapSelectsCommands : Obligations.OpcodeMapSelectsCommands := by
  unfold Obligations.OpcodeMapSelectsCommands
  intro w
  refine ⟨fun i hd => selectsRow_iff_decode.2 ⟨i, hd, rfl⟩, fun i => selectsRow_iff_decode.1, fun i j hi hj => ?_,
    selectsNoRow_iff_decode_error.1⟩
  obtain ⟨i', hdi, hi⟩ := selectsRow_iff_decode.1 hi
  obtain ⟨j', hdj, hj⟩ := selectsRow_iff_decode.1 hj
  cases hdi.symm.trans hdj
  exact hi.symm.trans hj

/-! ## The three kinds of reserved words -/

section Reserved

variable {w : CommandWord}

/-- A word with READ's op is reserved when rsv is not zero (R52). -/
theorem decodeRead_eq_error_iff : (∃ e, decodeRead w = .error e) ↔ rsvField w ≠ 0b00#2 := by
  by_cases hr : rsvField w = 0b00#2 <;> simp [decodeRead, hr]

/-- A word with an accessor's op is reserved when rsv or arg is not zero (R52). -/
theorem decodeAccessor_eq_error_iff {i : Instr} :
    (∃ e, decodeAccessor i w = .error e) ↔ rsvField w ≠ 0b00#2 ∨ argField w ≠ 0b000#3 := by
  by_cases hr : rsvField w = 0b00#2
  · by_cases ha : argField w = 0b000#3 <;> simp [decodeAccessor, hr, ha]
  · simp [decodeAccessor, hr]

/-- An op is READ's, an accessor's, or assigned to no command (R51). -/
theorem op_cases : ∀ op : BitVec 3, op = 0b001#3 ∨ (op = 0b010#3 ∨ op = 0b011#3 ∨ op = 0b100#3 ∨ op = 0b101#3) ∨
    (op = 0b000#3 ∨ op = 0b110#3 ∨ op = 0b111#3) := by decide

/-- The reserved words by their fields: R52's three kinds. -/
theorem decode_eq_error_iff : (∃ e, decode w = .error e) ↔
    (opField w = 0b000#3 ∨ opField w = 0b110#3 ∨ opField w = 0b111#3 ∨ rsvField w ≠ 0b00#2 ∨
      (opField w ≠ 0b001#3 ∧ argField w ≠ 0b000#3)) := by
  rcases op_cases (opField w) with h | (h | h | h | h) | (h | h | h)
  · simp [decode, h, decodeRead_eq_error_iff]
  all_goals simp [decode, h, decodeAccessor_eq_error_iff]

end Reserved

end Sys2Proof
end

section
/-! The handshake (30_encoding.md R52, R53, R55): the edges that accept a word and the edges that do not, what each
leaves in the response registers, and the obligations about them. -/

namespace Sys2Proof.Machine

variable {s : State}

/-! ## The four kinds of edge -/

/-- An edge with `rst = 1` (R107). -/
theorem step_reset (hr : (portNow s).rst = true) : step s = resetEdge s := by simp [step, hr]

/-- An edge that accepts a command (R53). -/
theorem step_command {i : Instr} (ha : accepts s = true) (hd : decode (portNow s).cmd = .ok i) :
    step s = exec i s := by
  simp [step, ((accepts_iff s).1 ha).1, ha, hd]

/-- An edge that accepts a reserved word (R52, R53). -/
theorem step_reserved {e : ReservedWord} (ha : accepts s = true) (hd : decode (portNow s).cmd = .error e) :
    step s = rejectReserved s := by
  simp [step, ((accepts_iff s).1 ha).1, ha, hd]

/-- An edge with `rst = 0` that accepts nothing (R53). -/
theorem step_quiet (hr : (portNow s).rst = false) (ha : accepts s = false) : step s = quietEdge s := by
  simp [step, hr, ha]

/-- Settles O8: such an edge accepts the word, and its step is the command's. -/
theorem stepRunsTheAcceptedCommand : Obligations.StepRunsTheAcceptedCommand := by
  unfold Obligations.StepRunsTheAcceptedCommand
  intro s i hr hv hf hd _
  exact step_command ((accepts_iff s).2 ⟨hr, hv, hf⟩) hd

/-- Settles O10: the edge that turns a command away is the reader's own. -/
theorem commandOfferedWhileBusyIsTurnedAway : Obligations.CommandOfferedWhileBusyIsTurnedAway := by
  unfold Obligations.CommandOfferedWhileBusyIsTurnedAway
  intro i s hf
  exact exec_busy i hf

/-- Settles O11: the words that select no row are those the decoder rejects, and the edge that accepts one responds. -/
theorem reservedWordsGiveOnlyTheErrorResponse : Obligations.ReservedWordsGiveOnlyTheErrorResponse := by
  unfold Obligations.ReservedWordsGiveOnlyTheErrorResponse
  refine ⟨fun w => selectsNoRow_iff_decode_error.trans decode_eq_error_iff, fun s ha hrow => ?_⟩
  obtain ⟨e, hd⟩ := selectsNoRow_iff_decode_error.1 hrow
  obtain ⟨-, -, hf⟩ := (accepts_iff s).1 ha
  rw [step_reserved ha hd]
  exact onAccept_idle hf

/-! ## The offer of an edge that accepts nothing -/

section Offer

variable (v : Bool) (w : CommandWord) (s : State)

/-- A changed offer is accepted or not by its own `cmd_valid` (R53). -/
theorem accepts_withOffer : accepts (withOffer v w s) = (!(portNow s).rst && v && cmdReady s) := rfl

/-- The serial reader reads SO and no other port. -/
theorem advance_withOffer : advance (withOffer v w s) = { advance s with inputs := (withOffer v w s).inputs } := by
  cases hf : s.fsm with
  | idle => rw [advance_idle hf, advance_idle (s := withOffer v w s) hf]; rfl
  | settle => simp only [advance, settleEdge, hf, withOffer, noResponse]; split_ifs <;> rfl
  | css => simp only [advance, cssEdge, hf, withOffer, noResponse]; split_ifs <;> rfl
  | high => simp only [advance, highEdge, hf, withOffer, noResponse]; split_ifs <;> rfl
  | low => simp only [advance, lowEdge, hf, withOffer, noResponse]; split_ifs <;> rfl

variable {v w s}

/-- Where neither the offer nor a changed one is accepted, the change makes no difference (R53): the edge uses up its
input, and neither the reset nor the serial reader reads the command port. -/
theorem step_withOffer (ha : accepts s = false) (ho : accepts (withOffer v w s) = false) :
    step (withOffer v w s) = step s := by
  cases hr : (portNow s).rst with
  | true =>
    rw [step_reset hr, step_reset (s := withOffer v w s) hr]
    rfl
  | false =>
    rw [step_quiet hr ha, step_quiet (s := withOffer v w s) hr ho, quietEdge, quietEdge, advance_withOffer]
    simp [tick, withOffer]

end Offer

/-- Settles O9: an edge accepts exactly under R53's three conditions, and one that does not, whatever is offered, is a
reset or the serial reader's own. -/
theorem handshakeAcceptsExactlyWhenReady : Obligations.HandshakeAcceptsExactlyWhenReady := by
  unfold Obligations.HandshakeAcceptsExactlyWhenReady
  intro s
  refine ⟨cmdReady_iff s, ?_, fun hr h => ?_, fun h w => ?_, fun h v w => ?_⟩
  · rintro ⟨hr, hv, hready⟩
    have ha : accepts s = true := (accepts_iff s).2 ⟨hr, hv, (cmdReady_iff s).1 hready⟩
    cases hd : decode (portNow s).cmd with
    | ok i => exact step_command ha hd
    | error e => exact step_reserved ha hd
  · have ha : accepts s = false := by rcases h with h | h <;> simp [accepts, h]
    exact step_quiet hr ha
  · have ha : accepts s = false := by rcases h with h | h | h <;> simp [accepts, h]
    exact step_withOffer ha ha
  · have ho (b : Bool) : (!(portNow s).rst && b && cmdReady s) = false := by rcases h with h | h <;> simp [h]
    exact step_withOffer (ho _) (ho v)

/-! ## The response registers -/

/-- A field's signed value is Lean's (R10). -/
theorem signedValue_eq_toInt {n : Nat} (v : BitVec n) : signedValue n v = v.toInt := by
  rw [signedValue, BitVec.toInt_eq_msb_cond, BitVec.msb_eq_getLsbD_last]
  simp

/-- Sign extension to 32 bits keeps the signed value (R10). -/
theorem sext32_eq_ofInt {n : Nat} (v : BitVec n) : sext32 n v = BitVec.ofInt 32 (signedValue n v) := by
  rw [signedValue_eq_toInt]
  rfl

/-- HOT's response word is the hot code in 32 bits (R56, R86). -/
theorem hotWord_eq_ofInt (f : Word) : hotWord f = BitVec.ofInt 32 (hotCode f) := sext32_eq_ofInt (hotField f)

/-- COLD's response word is the reference code in 32 bits (R56, R87). -/
theorem coldWord_eq_ofInt (f : Word) : coldWord f = BitVec.ofInt 32 (coldCode f) := sext32_eq_ofInt (coldField f)

/-- FAULTS' response word is the fault number in 32 bits (R56, R88). -/
theorem faultsWord_eq_ofNat (f : Word) : faultsWord f = BitVec.ofNat 32 (faultNumber (faultCode f)).toNat :=
  (BitVec.ofNat_toNat 32 (faultNumber (faultCode f))).symm

/-- RSP_VALID, RSP_DATA and RSP_ERR. -/
def responseRegisters (s : State) : Bool × Word × Bool := (s.rspValid, s.rspData, s.rspErr)

/-- The response registers after an edge from `s` that makes this response, or none (R55). -/
def respondedFrom (s : State) : Option (Word × Bool) → Bool × Word × Bool
  | some (d, e) => (true, d, e)
  | none => (false, s.rspData, s.rspErr)

/-- An accepted command responds with R56's value, and READ not yet (R55). -/
theorem responseRegisters_acceptEffect (i : Instr) (s : State) :
    responseRegisters (acceptEffect i s) = respondedFrom s (acceptedResponse (.ok i) s.frame) := by
  cases i with
  | read c => rfl
  | hot => rw [acceptedResponse, ← hotWord_eq_ofInt]; rfl
  | cold => rw [acceptedResponse, ← coldWord_eq_ofInt]; rfl
  | faults => rw [acceptedResponse, ← faultsWord_eq_ofNat]; rfl
  | raw => rfl

/-- The serial reader responds at the edge that completes a READ and at no other (R55, R73). -/
theorem responseRegisters_advance (s : State) :
    responseRegisters (advance s) =
      respondedFrom s (if completesRead s then some (0x00000000#32, false) else none) := by
  by_cases hdone : completesRead s = true
  · obtain ⟨hf, hc, hb⟩ := completesRead_iff.1 hdone
    rw [if_pos hdone, advance_low_end hf hc hb]
    rfl
  · rw [if_neg hdone]
    rcases advance_cases s with ⟨-, h⟩ | ⟨-, h, -⟩ | ⟨-, -, h⟩ | ⟨-, -, h⟩ | ⟨-, -, h⟩ | ⟨-, -, -, h⟩ | ⟨hf, hc, hb, -⟩
    case inr.inr.inr.inr.inr.inr => exact absurd (completesRead_iff.2 ⟨hf, hc, hb⟩) hdone
    all_goals
      rw [h]
      rfl

/-- R55, one line for each kind of edge with `rst = 0`. -/
theorem responseRegisters_edgeEffect (hr : (portNow s).rst = false) :
    responseRegisters (edgeEffect s) =
      respondedFrom s (if accepts s then acceptedResponse (decode (portNow s).cmd) s.frame
        else if completesRead s then some (0x00000000#32, false) else none) := by
  cases ha : accepts s with
  | false => simpa [edgeEffect, hr, ha] using responseRegisters_advance s
  | true =>
    cases hd : decode (portNow s).cmd with
    | ok i => simpa [edgeEffect, hr, ha, hd] using responseRegisters_acceptEffect i s
    | error e => simp [edgeEffect, hr, ha, hd, responseRegisters, respondedFrom, acceptedResponse]

/-- Settles O12: the end of an edge leaves the response to its effect, and commands are accepted in IDLE, where no READ
completes. -/
theorem responsesFollowTheHandshake : Obligations.ResponsesFollowTheHandshake := by
  unfold Obligations.ResponsesFollowTheHandshake
  intro s t hr h
  rw [step_eq] at h
  injection h with h
  subst h
  refine ⟨responseRegisters_edgeEffect hr, fun ha => ?_⟩
  obtain ⟨-, -, hf⟩ := (accepts_iff s).1 ha
  exact completesRead_idle hf

end Sys2Proof.Machine
end

section
/-! The channel selector and the serial reader, edge by edge (40_select_and_read.md R59, R60, R69 to R73). -/

namespace Sys2Proof.Machine

variable {s t : State}

/-! ## The edge that accepts a READ -/

/-- An edge that accepts READ c is that command's (R53, R69). -/
theorem step_acceptsRead {c : Channel} (h : AcceptsRead c s) : step s = exec (.read c) s :=
  step_command h.1 (h.2 ▸ decode_encode (.read c))

/-- Settles O27: exec of READ in IDLE is its effect, and an edge that accepts no READ leaves the reader alone. -/
theorem idleEdgeStartsReadOrKeepsTheReader : Obligations.IdleEdgeStartsReadOrKeepsTheReader := by
  unfold Obligations.IdleEdgeStartsReadOrKeepsTheReader
  intro s hf hr
  exact ⟨fun c => exec_idle (.read c) hf, fun c => step_acceptsRead,
    fun hn => ⟨_, step_eq s, sameButResponse_step hf hr hn (step_eq s)⟩⟩

/-- The mux lines of a channel are its binary digits (R49, R59). -/
theorem muxLine_weights : ∀ c : Channel,
    4 * (muxLine c 2).toNat + 2 * (muxLine c 1).toNat + (muxLine c 0).toNat = c.toNat := by decide

/-- Settles O28: the accepting edge puts the channel into T_REG, and the mux lines are T_REG's digits. -/
theorem readDrivesTheChannelOnTheMuxLines : Obligations.ReadDrivesTheChannelOnTheMuxLines := by
  unfold Obligations.ReadDrivesTheChannelOnTheMuxLines
  intro s c hf
  exact ⟨_, exec_idle (.read c) hf, muxLine_weights c⟩

/-! ## The edges of a READ in progress -/

/-- Settles O29: the two ways SETTLE can go. -/
theorem settleCountsThenDrivesCsLow : Obligations.SettleCountsThenDrivesCsLow := by
  unfold Obligations.SettleCountsThenDrivesCsLow
  intro s hf hr
  rw [step_busy hr (by simp [hf])]
  split_ifs with hc
  · rw [advance_settle_end hf hc]; rfl
  · rw [advance_settle_on hf hc]; rfl

/-- Settles O30: the two ways CSS can go. -/
theorem cssCountsThenDrivesSckHigh : Obligations.CssCountsThenDrivesSckHigh := by
  unfold Obligations.CssCountsThenDrivesSckHigh
  intro s hf hr
  rw [step_busy hr (by simp [hf])]
  split_ifs with hc
  · rw [advance_css_end hf hc]; rfl
  · rw [advance_css_on hf hc]; rfl

/-- Settles O31: the two ways HIGH can go; the new ACC is the old one with one bit written. -/
theorem highPhaseSamplesSoAtItsEnd : Obligations.HighPhaseSamplesSoAtItsEnd := by
  unfold Obligations.HighPhaseSamplesSoAtItsEnd
  intro s hf hr
  rw [step_busy hr (by simp [hf])]
  refine ⟨fun hc => ⟨writeBit s.acc s.bit (sampleSo s), ?_, ?_, fun i hi => ?_⟩, fun hc => ?_⟩
  · rw [advance_high_end hf hc]; rfl
  · rw [writeBit_getLsbD, if_pos rfl]
  · rw [writeBit_getLsbD, if_neg hi]
  · rw [advance_high_on hf hc]; rfl

/-- BIT above 0 is counted down without wrapping. -/
theorem toNat_sub_one {b : BitIndex} (hb : b ≠ 0#5) : (b - 1#5).toNat + 1 = b.toNat := by bv_omega

/-- Settles O32: the three ways LOW can go. -/
theorem lowPhaseAdvancesOrCompletesRead : Obligations.LowPhaseAdvancesOrCompletesRead := by
  unfold Obligations.LowPhaseAdvancesOrCompletesRead
  intro s hf hr
  rw [step_busy hr (by simp [hf])]
  refine ⟨fun hc hb => ?_, fun hc hb => ⟨s.bit - 1#5, toNat_sub_one hb, ?_⟩, fun hc => ?_⟩
  · rw [advance_low_end hf hc hb]; rfl
  · rw [advance_low_next hf hc hb]; rfl
  · rw [advance_low_on hf hc]; rfl

/-! ## T_REG -/

/-- The serial reader does not drive the mux lines (R60, R70 to R73). -/
@[simp] theorem advance_tReg (s : State) : (advance s).tReg = s.tReg := by
  rcases advance_cases s with ⟨-, h⟩ | ⟨-, h, -⟩ | ⟨-, -, h⟩ | ⟨-, -, h⟩ | ⟨-, -, h⟩ | ⟨-, -, -, h⟩ | ⟨-, -, -, h⟩ <;>
    rw [h] <;> rfl

/-- An edge that neither resets nor accepts a READ keeps T_REG, in IDLE or in mid-READ (R60). -/
theorem tReg_edgeEffect (hr : (portNow s).rst = false) (hn : ∀ c, ¬ AcceptsRead c s) :
    (edgeEffect s).tReg = s.tReg := by
  by_cases hf : s.fsm = .idle
  · exact (sameButResponse_step hf hr hn (step_eq s)).tReg
  · rw [edgeEffect_busy hr hf, advance_tReg]

/-- Settles O34: a reset clears T_REG, an accepted READ starts the settle interval with it, and no other edge writes
it. -/
theorem muxRegisterChangesOnlyAtAcceptanceAndReset : Obligations.MuxRegisterChangesOnlyAtAcceptanceAndReset := by
  unfold Obligations.MuxRegisterChangesOnlyAtAcceptanceAndReset
  intro s t h
  rw [step_eq] at h
  injection h with h
  subst h
  refine ⟨fun hr => ?_, fun c hread => ?_, fun hr hn => tReg_edgeEffect hr hn⟩
  · simp [edgeEffect, hr, resetRegisters_eq, State.resetWith]
  · rw [edgeEffect_read hread]
    exact ⟨rfl, rfl, rfl⟩

end Sys2Proof.Machine
end

section
/-! READ from outside (40_select_and_read.md R63, R67, R74): the state it ends in, its pin events, and the hidden
registers it forgets. -/

namespace Sys2Proof.Machine

variable {s : State}

/-- Settles O38: the phases of a READ run one after the other make the pseudocode's fold. -/
theorem readRefinesTheTransaction : Obligations.ReadRefinesTheTransaction := by
  unfold Obligations.ReadRefinesTheTransaction
  exact fun s c h => runEdges_read h

/-! ## Pin events -/

/-- The next rising edge of SCK comes a high and a low period later (R67). -/
theorem riseOffset_succ (cfg : Config) (k : Nat) :
    riseOffset cfg (k + 1) = riseOffset cfg k + cfg.highCycles + cfg.lowCycles := by
  simp only [riseOffset, Nat.succ_mul]
  omega

/-- A READ ends where the next rising edge of SCK would come (R67, R68). -/
theorem riseOffset_thirtyTwo (cfg : Config) : riseOffset cfg 32 = cfg.lRead := rfl

/-- The low period after a bit ends where the next rising edge of SCK comes. -/
theorem edgeNo_after_bit {cfg : Config} (b : BitIndex) {e k : Nat} (hs : s.edgeNo = e + riseOffset cfg k) :
    (pass cfg.lowCycles (bitSampled cfg b s)).edgeNo = e + riseOffset cfg (k + 1) := by
  simp [bitSampled, perform, riseOffset_succ, hs, Nat.add_assoc]

/-- A bit adds its two events (R67). -/
theorem bitSampled_trace {cfg : Config} (b : BitIndex) {e k : Nat} (hs : s.edgeNo = e + riseOffset cfg k) :
    (bitSampled cfg b s).trace = (bitEvents cfg e k).reverse ++ s.trace := by
  simp [bitSampled, perform, bitEvents, sampleOffset, hs, Nat.add_assoc]

/-- Clocking out bits, the first at the rising edge of SCK number `k`, adds the two events of each (R67). -/
theorem clockBits_trace {cfg : Config} (l : List BitIndex) {e k : Nat} (hs : s.edgeNo = e + riseOffset cfg k) :
    (clockBits cfg l s).trace = ((List.range' k l.length).flatMap (bitEvents cfg e)).reverse ++ s.trace := by
  induction l generalizing s k with
  | nil => rfl
  | cons b l ih =>
    rw [clockBits_cons, ih (edgeNo_after_bit b hs), pass_trace, bitSampled_trace b hs, List.length_cons,
      List.range'_succ, List.flatMap_cons, List.reverse_append, List.append_assoc]

/-- Clocking out bits, the first at the rising edge of SCK number `k`, ends where the next rising edge would come. -/
theorem clockBits_edgeNo {cfg : Config} (l : List BitIndex) {e k : Nat} (hs : s.edgeNo = e + riseOffset cfg k) :
    (clockBits cfg l s).edgeNo = e + riseOffset cfg (k + l.length) := by
  induction l generalizing s k with
  | nil => exact hs
  | cons b l ih => rw [clockBits_cons, ih (edgeNo_after_bit b hs), List.length_cons, Nat.add_right_comm, Nat.add_assoc]

/-- There are `n` frame bits below `n`. -/
theorem length_bitsBelow (n : Nat) : (bitsBelow n).length = n := by simp [bitsBelow]

/-- The first rising edge of SCK comes the two waits after the accepting edge (R67). -/
theorem clockReady_edgeNo (cfg : Config) (c : Channel) (s : State) :
    (clockReady cfg c s).edgeNo = s.edgeNo + riseOffset cfg 0 := by
  simp [clockReady, csLowered, channelSelected, riseOffset, Nat.add_assoc]

/-- Before the first rising edge of SCK, READ has selected its channel and lowered CS (R67). -/
theorem clockReady_trace (cfg : Config) (c : Channel) (s : State) :
    (clockReady cfg c s).trace = ⟨s.edgeNo + cfg.settleCycles, .csN false⟩ :: ⟨s.edgeNo, .t c⟩ :: s.trace := rfl

/-- The number of the edge that completes a READ (R67, R68). -/
theorem edgeNo_at_completion (c : Channel) (s : State) :
    (clockBits s.cfg (bitsBelow 32) (clockReady s.cfg c s)).edgeNo = s.edgeNo + s.cfg.lRead := by
  rw [clockBits_edgeNo _ (clockReady_edgeNo s.cfg c s), length_bitsBelow, Nat.zero_add, riseOffset_thirtyTwo]

/-- The transaction's pin events are R67's table. -/
theorem transactRead_trace (hf : s.fsm = .idle) (c : Channel) :
    (transactRead c s).trace = (readEvents s.cfg c s.edgeNo).reverse ++ s.trace := by
  have hlast : (transactRead c s).trace = ⟨s.edgeNo + s.cfg.lRead, .csN true⟩ ::
      (clockBits s.cfg (bitsBelow 32) (clockReady s.cfg c s)).trace := by
    rw [transactRead_eq hf, ← edgeNo_at_completion c s]
    rfl
  rw [hlast, clockBits_trace _ (clockReady_edgeNo s.cfg c s), length_bitsBelow, clockReady_trace, readEvents,
    List.range_eq_range']
  simp

/-- Settles O39: the run ends where the transaction does, whose events are the table's and whose frame bits are the
samples. -/
theorem readMakesExactlyTheListedPinEvents : Obligations.ReadMakesExactlyTheListedPinEvents := by
  unfold Obligations.ReadMakesExactlyTheListedPinEvents
  intro s c h
  obtain ⟨-, -, hf⟩ := (accepts_iff s).1 h.1.1
  refine ⟨transactRead c s, runEdges_read h, transactRead_trace hf c, ?_, fun k hk => ?_⟩
  · rw [transactRead_eq hf, ← edgeNo_at_completion c s]
    rfl
  · rw [transactRead_frame_getLsbD hf c (by omega), Nat.sub_sub_self (by omega)]

/-! ## The hidden registers -/

/-- Other values of CNT and BIT laid over a state. -/
def withCounters (n : Nat) (b : BitIndex) (s : State) : State := { s with cnt := n, bit := b }

/-- No line of the pseudocode reads or writes CNT or BIT. -/
theorem perform_withCounters (n : Nat) (b : BitIndex) (s : State) (a : Action) :
    perform (withCounters n b s) a = withCounters n b (perform s a) := by
  cases a with
  | drive d => cases d <;> rfl
  | clearAcc => rfl
  | wait n => rfl
  | sample i => rfl
  | publish => rfl
  | respond w e => rfl

/-- So the pseudocode as a whole does not. -/
theorem foldl_perform_withCounters (n : Nat) (b : BitIndex) (l : List Action) (s : State) :
    l.foldl perform (withCounters n b s) = withCounters n b (l.foldl perform s) := by
  induction l generalizing s with
  | nil => rfl
  | cons a l ih => rw [List.foldl_cons, perform_withCounters, ih, List.foldl_cons]

/-- Up to the first rising edge of SCK, READ clears ACC, whatever it held, and leaves CNT and BIT alone. -/
theorem clockReady_hidden (cfg : Config) (c : Channel) (a : Word) (n : Nat) (b : BitIndex) (s : State) :
    clockReady cfg c { s with acc := a, cnt := n, bit := b } = withCounters n b (clockReady cfg c s) := rfl

/-- The completing edge leaves CNT and BIT at 0, whatever they held. -/
theorem completeRead_withCounters (n : Nat) (b : BitIndex) (s : State) :
    completeRead (atPhase .low 0#5 (withCounters n b s)) = completeRead (atPhase .low 0#5 s) := rfl

/-- The transaction does not depend on the old ACC, CNT and BIT. -/
theorem transactRead_hidden (hf : s.fsm = .idle) (c : Channel) (a : Word) (n : Nat) (b : BitIndex) :
    transactRead c { s with acc := a, cnt := n, bit := b } = transactRead c s := by
  have hbits : clockBits s.cfg (bitsBelow 32) (clockReady s.cfg c { s with acc := a, cnt := n, bit := b }) =
      withCounters n b (clockBits s.cfg (bitsBelow 32) (clockReady s.cfg c s)) := by
    rw [clockReady_hidden]
    exact foldl_perform_withCounters ..
  rw [transactRead_eq hf, transactRead_eq (s := { s with acc := a, cnt := n, bit := b }) hf, hbits,
    completeRead_withCounters]

/-- Settles O44: both runs end where their transactions do, and those are the same. -/
theorem readForgetsTheOldHiddenRegisters : Obligations.ReadForgetsTheOldHiddenRegisters := by
  unfold Obligations.ReadForgetsTheOldHiddenRegisters
  intro s c a n b h
  obtain ⟨-, -, hf⟩ := (accepts_iff s).1 h.1.1
  have hother : RunsRead c { s with acc := a, cnt := n, bit := b } := h
  rw [runEdges_read h, ← transactRead_hidden hf c a n b]
  exact runEdges_read hother

end Sys2Proof.Machine
end

section
/-! READ edge by edge from its acceptance to its completion (40_select_and_read.md R65, R68): how many edges it has to
go, and what it holds meanwhile. -/

namespace Sys2Proof.Machine

variable {s t : State} {c : Channel}

/-! ## Edges to go -/

/-- The edges of a READ that come after its present phase, by the phase and BIT (R68). -/
def edgesAfterPhase (cfg : Config) (b : BitIndex) : Phase → Nat
  | .idle => 0
  | .settle => cfg.cssCycles + 32 * (cfg.highCycles + cfg.lowCycles)
  | .css => 32 * (cfg.highCycles + cfg.lowCycles)
  | .high => cfg.lowCycles + b.toNat * (cfg.highCycles + cfg.lowCycles)
  | .low => b.toNat * (cfg.highCycles + cfg.lowCycles)

/-- CSS is followed by HIGH for bit 31 (R71). -/
theorem edgesAfterPhase_css (cfg : Config) (b : BitIndex) :
    edgesAfterPhase cfg b .css = phaseLength cfg .high + edgesAfterPhase cfg 31#5 .high := by
  simp only [edgesAfterPhase, phaseLength, BitVec.toNat_ofNat]
  omega

/-- LOW is followed by HIGH for the next bit, if there is one (R73). -/
theorem edgesAfterPhase_low (cfg : Config) {b : BitIndex} (hb : b ≠ 0#5) :
    edgesAfterPhase cfg b .low = phaseLength cfg .high + edgesAfterPhase cfg (b - 1#5) .high := by
  simp only [edgesAfterPhase, phaseLength, ← toNat_sub_one hb, Nat.succ_mul]
  omega

/-- A READ is in progress and its completing edge is the `k`-th from here. -/
structure ReadToGo (k : Nat) (s : State) : Prop where
  busy : s.fsm ≠ .idle
  cnt : s.cnt < phaseLength s.cfg s.fsm
  edges : k + s.cnt = phaseLength s.cfg s.fsm + edgesAfterPhase s.cfg s.bit s.fsm

/-- A READ in progress has an edge to go. -/
theorem ReadToGo.pos {k : Nat} (h : ReadToGo k s) : 0 < k := by
  have := h.cnt
  have := h.edges
  omega

/-- Just after a phase is entered, its whole length is to go. -/
theorem readToGo_of_entered {k : Nat} (hf : s.fsm ≠ .idle) (hc : s.cnt = 0)
    (hk : k = phaseLength s.cfg s.fsm + edgesAfterPhase s.cfg s.bit s.fsm) : ReadToGo k s where
  busy := hf
  cnt := hc ▸ phaseLength_pos s.cfg s.fsm
  edges := by rw [hc, hk, Nat.add_zero]

/-- At the last edge of a phase, that edge is to go and those after the phase. -/
theorem ReadToGo.eq_edgesAfterPhase {k : Nat} (h : ReadToGo (k + 1) s) {p : Phase} (hf : s.fsm = p)
    (hc : s.cnt = phaseLength s.cfg p - 1) : k = edgesAfterPhase s.cfg s.bit p := by
  have hpos := phaseLength_pos s.cfg p
  have hedges := h.edges
  rw [hf, hc] at hedges
  omega

/-- An edge of a READ that does not complete it leaves one edge less to go (R70 to R73). -/
theorem ReadToGo.tick_advance {k : Nat} (h : ReadToGo (k + 1) s) (hd : completesRead s = false) :
    ReadToGo k (tick (advance s)) := by
  rcases advance_cases s with ⟨hf, -⟩ | ⟨-, ha, hc⟩ | ⟨hf, hc, ha⟩ | ⟨hf, hc, ha⟩ | ⟨hf, hc, ha⟩ |
    ⟨hf, hc, hb, ha⟩ | ⟨hf, hc, hb, -⟩
  · exact absurd hf h.busy
  · have hlen : s.cnt ≠ phaseLength s.cfg s.fsm - 1 := by
      rcases hc with ⟨hf, hc⟩ | ⟨hf, hc⟩ | ⟨hf, hc⟩ | ⟨hf, hc⟩ <;> rw [hf] <;> exact hc
    have hcnt : s.cnt + 1 < phaseLength s.cfg s.fsm := by
      have := h.cnt
      omega
    rw [ha]
    exact ⟨h.busy, hcnt, (Nat.succ_add_eq_add_succ k s.cnt).symm.trans h.edges⟩
  · rw [ha]
    exact readToGo_of_entered (by simp) rfl (h.eq_edgesAfterPhase hf hc)
  · rw [ha]
    exact readToGo_of_entered (by simp) rfl ((h.eq_edgesAfterPhase hf hc).trans (edgesAfterPhase_css _ _))
  · rw [ha]
    exact readToGo_of_entered (by simp) rfl (h.eq_edgesAfterPhase hf hc)
  · rw [ha]
    exact readToGo_of_entered (by simp) rfl ((h.eq_edgesAfterPhase hf hc).trans (edgesAfterPhase_low _ hb))
  · exact absurd (completesRead_iff.2 ⟨hf, hc, hb⟩) (by simp [hd])

/-- The completing edge is the one after which there is none to go. -/
theorem ReadToGo.completes_iff {k : Nat} (h : ReadToGo (k + 1) s) : completesRead s = true ↔ k = 0 := by
  constructor
  · intro hd
    obtain ⟨hf, hc, hb⟩ := completesRead_iff.1 hd
    rw [h.eq_edgesAfterPhase hf hc, hb]
    exact Nat.zero_mul _
  · rintro rfl
    by_contra hd
    exact (h.tick_advance (Bool.eq_false_iff.2 hd)).pos.ne rfl

/-! ## What a READ holds -/

/-- A READ of `c` accepted at `s` is in progress at `t`: `k` edges are to go, FRAME and the response's data are as they
were, T_REG is the channel, and there is no response (R65). -/
structure MidRead (c : Channel) (s : State) (k : Nat) (t : State) : Prop where
  toGo : ReadToGo k t
  tReg : t.tReg = c
  frame : t.frame = s.frame
  response : responseRegisters t = (false, s.rspData, s.rspErr)

/-- The edge that accepts READ c leaves all of it to go (R68, R69). -/
theorem midRead_tick_edgeEffect (h : AcceptsRead c s) : MidRead c s s.cfg.lRead (tick (edgeEffect s)) := by
  rw [edgeEffect_read h]
  exact ⟨readToGo_of_entered (by simp [atPhase]) rfl (Nat.add_assoc ..), rfl, rfl, rfl⟩

/-- An edge of a READ before the completing one only leaves one edge less to go. -/
theorem MidRead.tick_advance {k : Nat} (h : MidRead c s (k + 1) t) (hk : 0 < k) :
    MidRead c s k (tick (advance t)) := by
  have hd : completesRead t = false := Bool.eq_false_iff.2 fun hd => hk.ne' (h.toGo.completes_iff.1 hd)
  refine ⟨h.toGo.tick_advance hd, (advance_tReg t).trans h.tReg, ?_, ?_⟩
  · rw [tick_frame, advance_frame, hd, ← h.frame]
    rfl
  · have hadvance : responseRegisters (advance t) = (false, t.rspData, t.rspErr) := by
      rw [responseRegisters_advance, hd]
      rfl
    obtain ⟨-, hdata, herr⟩ : t.rspValid = false ∧ t.rspData = s.rspData ∧ t.rspErr = s.rspErr := by
      simpa [responseRegisters] using h.response
    rw [← hdata, ← herr]
    exact hadvance

/-- Each edge after the accepting one, up to the completing one, is the serial reader's (R69 to R73). -/
theorem RunsRead.runEdges_advance (h : RunsRead c s) {n k : Nat} (h1 : 1 ≤ n) (hn : n ≤ s.cfg.lRead)
    (hrun : runEdges n s = .next t) (ht : MidRead c s k t) : runEdges (n + 1) s = .next (tick (advance t)) := by
  have hr : (portNow t).rst = false := (congrArg Ports.rst (portAt_runEdges hrun 0)).trans (h.2 n h1 hn)
  rw [runEdges_add hrun 1, runEdges_succ, edgeEffect_busy hr ht.toGo.busy, runEdges_zero]

/-- After the first edge of a READ and `n` more, short of the completing one (R65, R68). -/
theorem midRead_runEdges (h : RunsRead c s) {n : Nat} (hn : n < s.cfg.lRead) :
    ∃ t, runEdges (n + 1) s = .next t ∧ MidRead c s (s.cfg.lRead - n) t := by
  induction n with
  | zero => exact ⟨_, runEdges_succ 0 s, midRead_tick_edgeEffect h.1⟩
  | succ n ih =>
    obtain ⟨t, hrun, hmid⟩ := ih (by omega)
    have hk : s.cfg.lRead - n = s.cfg.lRead - (n + 1) + 1 := by omega
    rw [hk] at hmid
    exact ⟨_, h.runEdges_advance (by omega) (by omega) hrun hmid, hmid.tick_advance (by omega)⟩

/-- So it is after the `n`-th edge, for each `n` from the first edge to the last before the completing one. -/
theorem RunsRead.midRead (h : RunsRead c s) {n : Nat} (h1 : 1 ≤ n) (hn : n ≤ s.cfg.lRead)
    (hrun : runEdges n s = .next t) : MidRead c s (s.cfg.lRead + 1 - n) t := by
  obtain ⟨m, rfl⟩ : ∃ m, n = m + 1 := ⟨n - 1, by omega⟩
  obtain ⟨t', hrun', hmid⟩ := midRead_runEdges h hn
  cases hrun.symm.trans hrun'
  rwa [Nat.add_sub_add_right]

/-! ## The end and the length of a READ -/

/-- Clocking bits out leaves the mux lines alone (R60). -/
theorem clockBits_tReg (cfg : Config) (l : List BitIndex) (s : State) : (clockBits cfg l s).tReg = s.tReg := by
  induction l generalizing s with
  | nil => rfl
  | cons b l ih =>
    rw [clockBits_cons, ih]
    rfl

/-- Clocking bits out leaves SCK low, if it clocks out any bit at all or SCK was low before (R62). -/
theorem clockBits_sck (cfg : Config) {l : List BitIndex} {s : State} (h : l ≠ [] ∨ s.sck = false) :
    (clockBits cfg l s).sck = false := by
  induction l generalizing s with
  | nil => exact h.resolve_left (not_not_intro rfl)
  | cons b l ih =>
    rw [clockBits_cons]
    exact ih (.inr rfl)

/-- A READ takes at least an eighth of a second (R6, R68). -/
theorem lRead_seconds (cfg : Config) : (1 : Rat) / 8 ≤ (cfg.lRead : Rat) / (cfg.fClkHz : Rat) := by
  obtain ⟨hclock, -, hsettle, -⟩ := cfg.params.problem_eq_none_iff.1 cfg.legal
  have hpos : (0 : Rat) < cfg.fClkHz := Nat.cast_pos.2 hclock
  have hlong : cfg.fClkHz ≤ 8 * cfg.lRead := by
    change cfg.params.fClkHz ≤ 8 * (cfg.params.settleCycles + _ + _)
    omega
  have hlong : (cfg.fClkHz : Rat) ≤ 8 * cfg.lRead := by exact_mod_cast hlong
  rw [div_le_div_iff₀ (by norm_num) hpos]
  linarith

/-- Settles O41: the edges before the completing one only count a READ down, and the completing one publishes ACC. -/
theorem readPublishesTheFrameAtOneEdge : Obligations.ReadPublishesTheFrameAtOneEdge := by
  unfold Obligations.ReadPublishesTheFrameAtOneEdge
  intro s c h
  refine ⟨fun n t h1 hn hrun => ?_, ?_⟩
  · have hmid := h.midRead h1 hn hrun
    exact ⟨hmid.frame, hmid.tReg, by simpa [responseRegisters] using hmid.response⟩
  · obtain ⟨t, hrun⟩ := runEdges_next s.cfg.lRead s
    have hpos : 0 < s.cfg.lRead := (midRead_tick_edgeEffect h.1).toGo.pos
    have hmid := h.midRead hpos le_rfl hrun
    rw [Nat.add_sub_cancel_left] at hmid
    refine ⟨t, _, hrun, h.runEdges_advance hpos le_rfl hrun hmid, ?_⟩
    rw [tick_frame, advance_frame, if_pos (hmid.toGo.completes_iff.2 rfl)]

/-- Settles O42: a READ is in progress after each of its first `L_READ` edges, and then the transaction has ended. -/
theorem readCompletesInExactlyLReadPeriods : Obligations.ReadCompletesInExactlyLReadPeriods := by
  unfold Obligations.ReadCompletesInExactlyLReadPeriods
  intro s c h
  obtain ⟨-, -, hf⟩ := (accepts_iff s).1 h.1.1
  refine ⟨fun n t h1 hn hrun => ?_, ⟨transactRead c s, runEdges_read h, ?_⟩, lRead_seconds s.cfg⟩
  · exact Bool.eq_false_iff.2 fun hready => (h.midRead h1 hn hrun).toGo.busy ((cmdReady_iff t).1 hready)
  · have hchannel : (clockBits s.cfg (bitsBelow 32) (clockReady s.cfg c s)).tReg = c :=
      clockBits_tReg s.cfg (bitsBelow 32) (clockReady s.cfg c s)
    have hsck : (clockBits s.cfg (bitsBelow 32) (clockReady s.cfg c s)).sck = false :=
      clockBits_sck s.cfg (.inl (by decide))
    rw [transactRead_eq hf]
    exact ⟨rfl, hchannel, rfl, hsck, rfl, rfl, rfl⟩

end Sys2Proof.Machine
end

section
/-! The fields of a frame (00_scope.md R10, 41_frame_decode.md R77 to R79, R82): their signed values and ranges, the
source's inversion algorithm, and which frame bits each decode reads. -/

namespace Sys2Proof.Machine

/-! ## Signed values of any width -/

section Signed

variable {n : Nat} (v : BitVec n)

/-- The signed value of an n-bit field lies in `[-2^(n-1), 2^(n-1))` (R10). -/
theorem signedValue_bounds : -(2 : Int) ^ (n - 1) ≤ signedValue n v ∧ signedValue n v < (2 : Int) ^ (n - 1) := by
  rw [signedValue_eq_toInt]
  exact ⟨v.le_toInt, v.toInt_lt⟩

/-- Every value of that range is the signed value of its two's complement form (R10). -/
theorem signedValue_ofInt (hn : 0 < n) {k : Int} (hlo : -(2 : Int) ^ (n - 1) ≤ k) (hhi : k < (2 : Int) ^ (n - 1)) :
    signedValue n (BitVec.ofInt n k) = k := by
  rw [signedValue_eq_toInt]
  exact BitVec.toInt_ofInt_eq_self hn hlo hhi

/-- Sign extension to 32 bits keeps the signed value (R10). -/
theorem toInt_sext32 (hn : n ≤ 32) : (sext32 n v).toInt = signedValue n v := by
  rw [signedValue_eq_toInt]
  exact BitVec.toInt_signExtend_of_le hn

/-- The sign extension of the field at bit `a` of a frame: its low bits are the frame's from bit `a` on, and the others
copy the field's top bit (R10). -/
theorem sext32_extractLsb'_bits (f : Word) (a : Nat) (h0 : 0 < n) (hn : n ≤ 32) :
    (∀ i, i < n → (sext32 n (f.extractLsb' a n)).getLsbD i = f.getLsbD (a + i)) ∧
    (∀ i, n ≤ i → i < 32 → (sext32 n (f.extractLsb' a n)).getLsbD i = f.getLsbD (a + (n - 1))) := by
  refine ⟨fun i hi => ?_, fun i hi h32 => ?_⟩
  · have h32 : i < 32 := by omega
    rw [sext32, BitVec.getLsbD_signExtend, if_pos hi, BitVec.getLsbD_extractLsb', decide_eq_true h32,
      decide_eq_true hi, Bool.true_and, Bool.true_and]
  · have htop : n - 1 < n := by omega
    rw [sext32, BitVec.getLsbD_signExtend, if_neg hi.not_gt, BitVec.msb_eq_getLsbD_last, BitVec.getLsbD_extractLsb',
      decide_eq_true h32, decide_eq_true htop, Bool.true_and, Bool.true_and]

/-- Frames that agree in the bits of a field have the same field there. -/
theorem extractLsb'_congr {f g : Word} {a : Nat} (h : ∀ i, a ≤ i → i < a + n → f.getLsbD i = g.getLsbD i) :
    f.extractLsb' a n = g.extractLsb' a n := by
  refine BitVec.eq_of_getLsbD_eq fun i hi => ?_
  rw [BitVec.getLsbD_extractLsb', BitVec.getLsbD_extractLsb', h (a + i) (by omega) (by omega)]

/-- The top bit of a field is set exactly from the source's threshold on (R78). -/
theorem getLsbD_last_iff : v.getLsbD (n - 1) = true ↔ 2 ^ (n - 1) ≤ v.toNat := by
  rw [← BitVec.msb_eq_getLsbD_last, BitVec.msb_eq_decide, decide_eq_true_iff]

/-- Invert, add one and negate is subtracting `2^n`, which is the weight of the top bit twice over (R78). -/
theorem signedValue_eq_invertAndNegate : signedValue n v = invertAndNegate n v.toNat := by
  rw [signedValue, invertAndNegate]
  simp only [getLsbD_last_iff]
  split
  · have hlt := v.isLt
    have hinverted : ((2 ^ n - 1 - v.toNat : Nat) : Int) = (2 : Int) ^ n - 1 - v.toNat := by
      rw [Nat.sub_sub, Nat.cast_sub (by omega)]
      push_cast
      ring
    rw [hinverted]
    ring
  · rfl

end Signed

/-- Settles O20: the algorithm's threshold is the top bit, and past it both subtract `2^n`. -/
theorem inversionAlgorithmIsTheSignedValue : Obligations.InversionAlgorithmIsTheSignedValue := by
  unfold Obligations.InversionAlgorithmIsTheSignedValue
  intro n v _
  exact ⟨signedValue_eq_invertAndNegate v, signedValue_eq_toInt v⟩

/-! ## The hot field -/

section Hot

variable (f : Word)

/-- The sign bit of the hot field is frame bit 31 (R77). -/
theorem hotField_sign : (hotField f).getLsbD (14 - 1) = f.getLsbD 31 := BitVec.getLsbD_extractLsb' 18 14 f 13

/-- As a number, the hot field is the frame without its low 18 bits (R21). -/
theorem hotField_toNat : (hotField f).toNat = f.toNat / 2 ^ 18 := by
  have hlt := f.isLt
  rw [hotField, BitVec.extractLsb'_toNat, Nat.shiftRight_eq_div_pow]
  exact Nat.mod_eq_of_lt (by omega)

/-- The hot code as R77 and R10 write it out. -/
theorem hotCode_eq : hotCode f = if f.getLsbD 31 then ((f.toNat / 2 ^ 18 : Nat) : Int) - 2 ^ 14
    else ((f.toNat / 2 ^ 18 : Nat) : Int) := by
  rw [hotCode, signedValue, hotField_toNat, hotField_sign]

/-- A frame's hot field is its bits [31:18] and no others. -/
theorem hotField_congr {f g : Word} (h : ∀ i, 18 ≤ i → i < 32 → f.getLsbD i = g.getLsbD i) :
    hotField f = hotField g :=
  extractLsb'_congr h

/-- The frame with this hot code and bits [17:0] zero. -/
def frameOfHot (k : Int) : Word := BitVec.ofInt 14 k ++ 0#18

/-- The low 18 bits of that frame are zero. -/
theorem frameOfHot_low (k : Int) : (frameOfHot k).toNat % 2 ^ 18 = 0 := by
  rw [frameOfHot, BitVec.toNat_append, Nat.shiftLeft_eq, BitVec.toNat_ofNat, Nat.zero_mod, Nat.or_zero]
  exact Nat.mul_mod_left _ _

/-- Each code of the range is that of its frame (R77). -/
theorem hotCode_frameOfHot {k : Int} (hlo : -8192 ≤ k) (hhi : k ≤ 8191) : hotCode (frameOfHot k) = k := by
  have hfield : hotField (frameOfHot k) = BitVec.ofInt 14 k := BitVec.extractLsb'_append_eq_left
  rw [hotCode, hfield]
  exact signedValue_ofInt (by omega) (by omega) (by omega)

end Hot

/-- Settles O18: the code is the field's signed value, whose range every 14-bit field lies in, and the frame made of a
code's two's complement form has that code. -/
theorem hotCodeCoversItsWholeRange : Obligations.HotCodeCoversItsWholeRange := by
  unfold Obligations.HotCodeCoversItsWholeRange
  refine ⟨fun f => ?_, fun k hlo hhi => ?_⟩
  · obtain ⟨hlo, hhi⟩ : -8192 ≤ hotCode f ∧ hotCode f < 8192 := signedValue_bounds (hotField f)
    exact ⟨hotCode_eq f, hlo, by omega, div_mul_cancel₀ _ (by norm_num)⟩
  · have hcode := hotCode_frameOfHot hlo hhi
    exact ⟨frameOfHot k, frameOfHot_low k, hcode, by rw [hotCelsius, hcode]⟩

/-! ## The reference field -/

section Cold

variable (f : Word)

/-- The sign bit of the reference field is frame bit 15 (R79). -/
theorem coldField_sign : (coldField f).getLsbD (12 - 1) = f.getLsbD 15 := BitVec.getLsbD_extractLsb' 4 12 f 11

/-- The source's mask and shift take out the reference field (R79). -/
theorem mask_shift_eq_coldField : ((f &&& 0xFFF0#32) >>> 4).toNat = (coldField f).toNat := by
  have hmask : ((0xFFF0#32) >>> 4).toNat = 2 ^ 12 - 1 := by decide
  rw [coldField, BitVec.extractLsb'_toNat, BitVec.ushiftRight_and_distrib, BitVec.toNat_and, hmask,
    Nat.and_two_pow_sub_one_eq_mod, BitVec.toNat_ushiftRight]

/-- The reference code as R79 and R10 write it out. -/
theorem coldCode_eq : coldCode f = if f.getLsbD 15 then (((f &&& 0xFFF0#32) >>> 4).toNat : Int) - 2 ^ 12
    else (((f &&& 0xFFF0#32) >>> 4).toNat : Int) := by
  rw [coldCode, signedValue, mask_shift_eq_coldField, coldField_sign]

/-- A frame's reference field is its bits [15:4] and no others. -/
theorem coldField_congr {f g : Word} (h : ∀ i, 4 ≤ i → i < 16 → f.getLsbD i = g.getLsbD i) :
    coldField f = coldField g :=
  extractLsb'_congr h

/-- The frame with this reference code and every other bit zero. -/
def frameOfCold (k : Int) : Word := 0#16 ++ (BitVec.ofInt 12 k ++ 0#4)

/-- Each code of the range is that of its frame (R79). -/
theorem coldCode_frameOfCold {k : Int} (hlo : -2048 ≤ k) (hhi : k ≤ 2047) : coldCode (frameOfCold k) = k := by
  have hfield : coldField (frameOfCold k) = BitVec.ofInt 12 k := by
    rw [coldField, frameOfCold, BitVec.extractLsb'_append_eq_of_add_le (by omega)]
    exact BitVec.extractLsb'_append_eq_left
  rw [coldCode, hfield]
  exact signedValue_ofInt (by omega) (by omega) (by omega)

end Cold

/-- Settles O19: the source's expression is the field, whose range every 12-bit field lies in, and the frame made of a
code's two's complement form has that code. -/
theorem coldCodeCoversItsWholeRange : Obligations.ColdCodeCoversItsWholeRange := by
  unfold Obligations.ColdCodeCoversItsWholeRange
  refine ⟨fun f => ?_, fun k hlo hhi => ?_⟩
  · obtain ⟨hlo, hhi⟩ : -2048 ≤ coldCode f ∧ coldCode f < 2048 := signedValue_bounds (coldField f)
    exact ⟨mask_shift_eq_coldField f, coldCode_eq f, hlo, by omega, div_mul_cancel₀ _ (by norm_num)⟩
  · have hcode := coldCode_frameOfCold hlo hhi
    exact ⟨frameOfCold k, hcode, by rw [coldCelsius, hcode]⟩

/-! ## The fault bits -/

/-- FAULTS' response word is the number of the fault code (R83, R88). -/
theorem toNat_faultsWord (f : Word) : (faultsWord f).toNat = (faultNumber (faultCode f)).toNat :=
  BitVec.toNat_setWidth_of_le (by omega)

/-- The number of a frame's fault, by the fault bits in their priority (R82, R83). -/
theorem toNat_faultNumber_faultCode (f : Word) : (faultNumber (faultCode f)).toNat =
    if faultSummary f = false then 0 else if scvBit f = true then 1
      else if scgBit f = true then 2 else if ocBit f = true then 3 else 0 := by
  unfold faultCode
  split_ifs <;> rfl

/-- A frame's fault code is told by bits 16, 2, 1 and 0 (R82). -/
theorem faultCode_congr {f g : Word} (hsummary : faultSummary f = faultSummary g) (hscv : scvBit f = scvBit g)
    (hscg : scgBit f = scgBit g) (hoc : ocBit f = ocBit g) : faultCode f = faultCode g := by
  rw [faultCode, faultCode, hsummary, hscv, hscg, hoc]

end Sys2Proof.Machine
end

section
/-! The accessors (41_frame_decode.md R76, R80, R81, R84 to R89): each answers the decode of FRAME and changes nothing
else, so frames that agree in the bits a decode reads give the same answer. -/

namespace Sys2Proof.Machine

variable {s : State} {i : Instr} {f : Word}

/-! ## The next state -/

/-- Settles O17: RAW's effect is to respond with FRAME. -/
theorem rawReturnsTheFrame : Obligations.RawReturnsTheFrame := by
  unfold Obligations.RawReturnsTheFrame
  exact fun s hf => exec_idle .raw hf

/-- Settles O14: the answer is the hot field extended by its sign, which keeps its value and its bits. -/
theorem hotReturnsTheSignedHotField : Obligations.HotReturnsTheSignedHotField := by
  unfold Obligations.HotReturnsTheSignedHotField
  intro s hf
  have hvalue : (hotWord s.frame).toInt = hotCode s.frame := toInt_sext32 (hotField s.frame) (by omega)
  refine ⟨hotWord s.frame, exec_idle .hot hf, hvalue, by rw [hvalue, hotCelsius], ?_⟩
  exact sext32_extractLsb'_bits s.frame 18 (by omega) (by omega)

/-- Settles O15: the answer is the reference field extended by its sign, which keeps its value and its bits. -/
theorem coldReturnsTheSignedReferenceField : Obligations.ColdReturnsTheSignedReferenceField := by
  unfold Obligations.ColdReturnsTheSignedReferenceField
  intro s hf
  have hvalue : (coldWord s.frame).toInt = coldCode s.frame := toInt_sext32 (coldField s.frame) (by omega)
  refine ⟨coldWord s.frame, exec_idle .cold hf, hvalue, by rw [hvalue, coldCelsius], ?_⟩
  exact sext32_extractLsb'_bits s.frame 4 (by omega) (by omega)

/-- Settles O16: the answer is the number of the fault code, which the frame's bits give in their priority. -/
theorem faultsReturnsTheFirstFaultByPriority : Obligations.FaultsReturnsTheFirstFaultByPriority := by
  unfold Obligations.FaultsReturnsTheFirstFaultByPriority
  intro s hf
  exact ⟨faultsWord s.frame, exec_idle .faults hf,
    (toNat_faultsWord s.frame).trans (toNat_faultNumber_faultCode s.frame)⟩

/-! ## The response -/

/-- The response of a command in IDLE is R56's (R55). -/
theorem responseOf_exec (hf : s.fsm = .idle) (i : Instr) :
    responseOf (exec i s) = some (respondedFrom s (acceptedResponse (.ok i) s.frame)) := by
  rw [exec_idle i hf, ← responseRegisters_acceptEffect]
  rfl

/-- Frames with the same R56 response give a command the same response registers. -/
theorem responseOf_exec_congr (hf : s.fsm = .idle)
    (h : acceptedResponse (.ok i) f = acceptedResponse (.ok i) s.frame) :
    responseOf (exec i { s with frame := f }) = responseOf (exec i s) := by
  rw [responseOf_exec hf, responseOf_exec (s := { s with frame := f }) hf, h]
  rfl

/-- A response is made exactly where there is one to make, and is that one (R55). -/
theorem respondedFrom_eq_iff {r : Option (Word × Bool)} {d : Word} {e : Bool} :
    respondedFrom s r = (true, d, e) ↔ r = some (d, e) := by
  cases r with
  | none => simp [respondedFrom]
  | some r => simp [respondedFrom, Prod.ext_iff]

/-- Settles O24: an accessor's effect is to respond, with R56's word. -/
theorem accessorsWriteOnlyTheResponse : Obligations.AccessorsWriteOnlyTheResponse := by
  unfold Obligations.AccessorsWriteOnlyTheResponse
  intro i s hi hf
  obtain ⟨answer, ha⟩ := acceptEffect_accessor hi
  have hrsp := responseRegisters_acceptEffect i s
  rw [ha] at hrsp
  exact ⟨tick (respond (answer s.frame) false s), ha s ▸ exec_idle i hf, sameButResponse_tick_respond _ _ s, rfl,
    (respondedFrom_eq_iff.1 hrsp.symm).symm, rfl, rfl⟩

/-- Settles O21: HOT's response is a function of the hot field. -/
theorem hotDependsOnlyOnItsField : Obligations.HotDependsOnlyOnItsField := by
  unfold Obligations.HotDependsOnlyOnItsField
  intro s f hf h
  refine responseOf_exec_congr hf ?_
  rw [acceptedResponse, acceptedResponse, hotCode, hotCode, hotField_congr h]

/-- Settles O22: COLD's response is a function of the reference field. -/
theorem coldDependsOnlyOnItsField : Obligations.ColdDependsOnlyOnItsField := by
  unfold Obligations.ColdDependsOnlyOnItsField
  intro s f hf h
  refine responseOf_exec_congr hf ?_
  rw [acceptedResponse, acceptedResponse, coldCode, coldCode, coldField_congr h]

/-- Settles O23: bits 17 and 3 lie in no field that HOT, COLD or FAULTS decodes. -/
theorem reservedFrameBitsReachOnlyRaw : Obligations.ReservedFrameBitsReachOnlyRaw := by
  unfold Obligations.ReservedFrameBitsReachOnlyRaw
  intro s f hf h
  have hfault : faultCode f = faultCode s.frame :=
    faultCode_congr (h 16 (by omega) (by omega)) (h 2 (by omega) (by omega)) (h 1 (by omega) (by omega))
      (h 0 (by omega) (by omega))
  refine ⟨?_, ?_, ?_, responseOf_exec (s := { s with frame := f }) hf .raw⟩
  · exact hotDependsOnlyOnItsField s f hf fun i hi _ => h i (by omega) (by omega)
  · exact coldDependsOnlyOnItsField s f hf fun i hi hi' => h i (by omega) (by omega)
  · exact responseOf_exec_congr hf (by rw [acceptedResponse, acceptedResponse, hfault])

/-- Settles O26: the zero frame decodes to zero. -/
theorem zeroFrameDecodesToZero : Obligations.ZeroFrameDecodesToZero := by
  unfold Obligations.ZeroFrameDecodesToZero
  intro i s hi hf hzero
  have hdecode : acceptedResponse (.ok i) 0x00000000#32 = some (0x00000000#32, false) := by
    cases i with
    | read c => exact absurd hi Bool.false_ne_true
    | hot => decide
    | cold => decide
    | faults => decide
    | raw => rfl
  rw [responseOf_exec hf, hzero, hdecode]
  rfl

end Sys2Proof.Machine
end

section
/-! What the environment and the host can make of the block (60_exceptions.md R90, R102): every edge and
every command has a next state, and under ENV a READ captures the converter's frame. -/

namespace Sys2Proof.Machine

/-- Settles O13: an edge is its effect and the end of the edge, and a command is carried out in IDLE and turned away
while a READ is in progress. -/
theorem everyEdgeAndCommandAnswersANextState : Obligations.EveryEdgeAndCommandAnswersANextState := by
  unfold Obligations.EveryEdgeAndCommandAnswersANextState
  refine ⟨fun s => ⟨_, step_eq s⟩, fun i s => ?_⟩
  by_cases hf : s.fsm = .idle
  · exact ⟨_, exec_idle i hf⟩
  · exact ⟨_, exec_busy i hf⟩

/-- Under ENV the sample after `k` falling edges is no draw: it is the bit the converter presents. -/
theorem EnvPresents.soAt_sampleOffset {f : Word} {s : State} (h : EnvPresents f s) {k : Nat} (hk : k < 32) :
    soAt s (sampleOffset s.cfg k) = presentedBit f k := by
  rw [soAt, h k hk]

/-- Under ENV the transaction publishes the converter's frame: bit `i` is sample `31 - i`, at which the converter
presents bit `i`. -/
theorem transactRead_frame_of_envPresents {f : Word} {s : State} (hf : s.fsm = .idle) (c : Channel)
    (h : EnvPresents f s) : (transactRead c s).frame = f := by
  refine BitVec.eq_of_getLsbD_eq fun i hi => ?_
  rw [transactRead_frame_getLsbD hf c hi, h.soAt_sampleOffset (by omega), presentedBit, Nat.sub_sub_self (by omega)]

/-- Settles O43: the run ends where the transaction does, whose frame is the converter's and whose T_REG is O42's. -/
theorem readCapturesTheConverterFrameUnderEnv : Obligations.ReadCapturesTheConverterFrameUnderEnv := by
  unfold Obligations.ReadCapturesTheConverterFrameUnderEnv
  intro s c f hrun henv
  obtain ⟨-, -, hf⟩ := (accepts_iff s).1 hrun.1.1
  obtain ⟨-, ⟨t, ht, -, hchannel, -⟩, -⟩ := readCompletesInExactlyLReadPeriods s c hrun
  have hend : transactRead c s = t := Host.Outcome.next.inj ((runEdges_read hrun).symm.trans ht)
  exact ⟨t, ht, hend ▸ transactRead_frame_of_envPresents hf c henv, hchannel⟩

end Sys2Proof.Machine
end

section
/-! Reset and hazards (70_reset_and_hazards.md R107, R109, R111, R118, R119): what a reset edge leaves, from which edge
on a frame can be read, and how long CS stays high between READs. -/

namespace Sys2Proof.Machine

variable {s t : State}

/-! ## The reset edge -/

/-- Settles O6: a reset edge is the reset of the registers, whatever else the ports hold. -/
theorem resetEdgeGivesResetValues : Obligations.ResetEdgeGivesResetValues := by
  unfold Obligations.ResetEdgeGivesResetValues
  intro s hr
  exact ⟨tick (resetRegisters s), step_reset hr, rfl, rfl, rfl, rfl, rfl, rfl, rfl, rfl, rfl, rfl, rfl, rfl⟩

/-- Settles O36: the reset of the registers leads to the invariant from any of their values. -/
theorem resetReachesTheInvariantFromAnyRegisters : Obligations.ResetReachesTheInvariantFromAnyRegisters := by
  unfold Obligations.ResetReachesTheInvariantFromAnyRegisters
  intro s t hpast hr hstep
  have ht : tick (resetRegisters s) = t := Host.Outcome.next.inj ((step_reset hr).symm.trans hstep)
  exact ht ▸ inv_tick_resetRegisters hpast

/-- The effect of an edge with `rst = 1` (R107). -/
theorem edgeEffect_reset (hr : (portNow s).rst = true) : edgeEffect s = resetRegisters s := by simp [edgeEffect, hr]

/-- The effect of an edge with `rst = 0` that accepts nothing (R53). -/
theorem edgeEffect_quiet (hr : (portNow s).rst = false) (ha : accepts s = false) : edgeEffect s = advance s := by
  simp [edgeEffect, hr, ha]

/-! ## After a reset -/

/-- The block as a reset leaves it and as it stays until a command is accepted: no READ in progress, the pins at their
reset levels, no frame and no response (R109). -/
structure AtRest (s : State) : Prop where
  csN : s.csN = true
  sck : s.sck = false
  tReg : s.tReg = 0b000#3
  frame : s.frame = 0x00000000#32
  fsm : s.fsm = .idle
  rspValid : s.rspValid = false

/-- A reset edge brings the block to rest from any state, in mid-READ too (R107, R109). -/
theorem atRest_tick_resetRegisters (s : State) : AtRest (tick (resetRegisters s)) := ⟨rfl, rfl, rfl, rfl, rfl, rfl⟩

/-- An edge that offers no command leaves the block at rest: it resets again, or it is an edge of IDLE. -/
theorem AtRest.tick_edgeEffect (h : AtRest s) (hv : (portNow s).cmdValid = false) : AtRest (tick (edgeEffect s)) := by
  cases hr : (portNow s).rst with
  | true => exact edgeEffect_reset hr ▸ atRest_tick_resetRegisters s
  | false =>
    rw [edgeEffect_quiet hr (by simp [accepts, hv]), advance_idle h.fsm]
    exact ⟨h.csN, h.sck, h.tReg, h.frame, h.fsm, rfl⟩

/-- So does a run of such edges, of any length. -/
theorem AtRest.exists_runEdges (h : AtRest s) {n : Nat} (hv : ∀ k, k < n → (portAt s k).cmdValid = false) :
    ∃ t, runEdges n s = .next t ∧ AtRest t := by
  induction n generalizing s with
  | zero => exact ⟨s, runEdges_zero s, h⟩
  | succ n ih =>
    rw [runEdges_succ]
    refine ih (h.tick_edgeEffect (hv 0 n.succ_pos)) fun k hk => ?_
    rw [portAt_tick, portAt_congr (edgeEffect_inputs s)]
    exact hv (k + 1) (by omega)

/-- Settles O7: the reset edge brings the block to rest, where the edges without an offer leave it. -/
theorem resetAbandonsReadWithoutResponse : Obligations.ResetAbandonsReadWithoutResponse := by
  unfold Obligations.ResetAbandonsReadWithoutResponse
  intro s n hr hv
  obtain ⟨t, hrun, hrest⟩ := (atRest_tick_resetRegisters s).exists_runEdges (n := n) fun k hk => by
    rw [portAt_tick]
    exact hv (k + 1) (by omega) (by omega)
  rw [runEdges_succ, edgeEffect_reset hr]
  exact ⟨t, hrun, hrest.csN, hrest.sck, hrest.tReg, hrest.frame, hrest.fsm, hrest.rspValid⟩

/-! ## An accessor after a READ -/

/-- A run of one edge is a step. -/
theorem runEdges_one (s : State) : runEdges 1 s = step s := by rw [runEdges_succ, runEdges_zero, step_eq]

/-- An accessor's edge in IDLE answers the decode of FRAME (R55, R76). -/
theorem step_accessor {i : Instr} (hi : isAccessor i = true) (hf : s.fsm = .idle) (hr : (portNow s).rst = false)
    (hv : (portNow s).cmdValid = true) (hw : (portNow s).cmd = encode i) :
    ∃ v, step s = .next v ∧ v.rspValid = true ∧ some (v.rspData, v.rspErr) = acceptedResponse (.ok i) s.frame := by
  obtain ⟨v, hexec, -, hvalid, hanswer, -⟩ := accessorsWriteOnlyTheResponse i s hi hf
  have hstep : step s = exec i s := step_command ((accepts_iff s).2 ⟨hr, hv, hf⟩) (hw ▸ decode_encode i)
  exact ⟨v, hstep.trans hexec, hvalid, hanswer⟩

/-- Settles O45: the READ ends in IDLE with its frame, the stretch after it leaves both alone, and the accessor decodes
that frame; before the completing edge the READ is still in progress. -/
theorem accessorAfterReadSeesItsFrame : Obligations.AccessorAfterReadSeesItsFrame := by
  unfold Obligations.AccessorAfterReadSeesItsFrame
  intro s t u c i m hread hi hend hn hrun hr hv hw
  obtain ⟨hbusy, ⟨t', hend', hready, -⟩, -⟩ := readCompletesInExactlyLReadPeriods s c hread
  cases hend'.symm.trans hend
  have hidle : t.fsm = .idle := (cmdReady_iff t).1 hready
  have hsame : SameButResponse t u := sameButResponse_runEdges hidle hn hrun
  have hidle' : u.fsm = .idle := hsame.fsm.trans hidle
  obtain ⟨r, hbefore⟩ := runEdges_next s.cfg.lRead s
  have hpos : 0 < s.cfg.lRead := (midRead_tick_edgeEffect hread.1).toGo.pos
  obtain ⟨v, hstep, hvalid, hanswer⟩ := step_accessor hi hidle' hr hv hw
  have hall : runEdges (s.cfg.lRead + m + 2) s = .next v := calc
    runEdges (s.cfg.lRead + m + 2) s = runEdges (s.cfg.lRead + 1 + (m + 1)) s := by congr 1; omega
    _ = runEdges (m + 1) t := runEdges_add hend _
    _ = runEdges 1 u := runEdges_add hrun 1
    _ = .next v := (runEdges_one u).trans hstep
  exact ⟨r, v, hbefore, hbusy _ r hpos le_rfl hbefore, (cmdReady_iff u).2 hidle', hall, hvalid, hsame.frame ▸ hanswer⟩

/-! ## Chip-select between READs -/

/-- The next `k` edges do not lower CS: either no READ is in progress and `k` edges fit a settle interval, or a settle
interval is running with more than `k` periods to go (R70). -/
structure CsHeldFor (k : Nat) (s : State) : Prop where
  fits : k ≤ s.cfg.settleCycles
  phase : s.fsm = .idle ∨ (s.fsm = .settle ∧ s.cnt + k < s.cfg.settleCycles)

/-- An edge leaves one edge less for which CS is held: a READ accepted starts a whole settle interval, an edge of
SETTLE before its end counts, and every other edge leads to IDLE (R69, R70, R107). -/
theorem CsHeldFor.tick_edgeEffect {k : Nat} (h : CsHeldFor (k + 1) s) : CsHeldFor k (tick (edgeEffect s)) := by
  have hfits : k < s.cfg.settleCycles := h.fits
  cases hr : (portNow s).rst with
  | true =>
    rw [edgeEffect_reset hr]
    exact ⟨hfits.le, .inl rfl⟩
  | false =>
    rcases h.phase with hf | ⟨hf, hc⟩
    · by_cases hread : ∃ c, AcceptsRead c s
      · obtain ⟨c, hread⟩ := hread
        rw [edgeEffect_read hread]
        exact ⟨hfits.le, .inr ⟨rfl, (Nat.zero_add k).trans_lt hfits⟩⟩
      · have hsame : SameButResponse s (tick (edgeEffect s)) :=
          sameButResponse_step hf hr (not_exists.1 hread) (step_eq s)
        exact ⟨hsame.cfg ▸ hfits.le, .inl (hsame.fsm.trans hf)⟩
    · rw [edgeEffect_busy hr (by simp [hf]), advance_settle_on hf (by omega)]
      exact ⟨hfits.le, .inr ⟨hf, (Nat.succ_add_eq_add_succ s.cnt k).trans_lt hc⟩⟩

/-- A run as long as CS is held ends in IDLE or in SETTLE. -/
theorem CsHeldFor.runEdges {n : Nat} (h : CsHeldFor n s) (hrun : runEdges n s = .next t) : CsHeldFor 0 t := by
  induction n generalizing s with
  | zero => exact Host.Outcome.next.inj hrun ▸ h
  | succ n ih => exact ih h.tick_edgeEffect ((runEdges_succ n s).symm.trans hrun)

/-- Every run keeps the invariant. -/
theorem Inv.runEdges {n : Nat} (h : Inv s) (hrun : runEdges n s = .next t) : Inv t := by
  induction n generalizing s with
  | zero => exact Host.Outcome.next.inj hrun ▸ h
  | succ n ih =>
    exact ih (everyStepKeepsTheInvariant s _ h (step_eq s)) ((runEdges_succ n s).symm.trans hrun)

/-- Settles O46: a settle interval lies between IDLE and the fall of CS, and the invariant says CS is high till then. -/
theorem chipSelectStaysHighBetweenReads : Obligations.ChipSelectStaysHighBetweenReads := by
  unfold Obligations.ChipSelectStaysHighBetweenReads
  intro s t n hinv hf hn hrun
  have hheld : CsHeldFor n s := ⟨hn, .inl hf⟩
  rw [(hinv.runEdges hrun).cs]
  rcases (hheld.runEdges hrun).phase with hf | ⟨hf, -⟩ <;> rw [hf] <;> rfl

end Sys2Proof.Machine
end
